-- ==== Sys2Proof/Word.lean ====
section
/-! DEFINITION. The plain words and index types of the JK3208 model. -/

namespace Sys2Proof

/-- A byte of a frame, a payload or a character's eight data bits (R16). -/
abbrev Byte := BitVec 8

/-- A 16-bit node or relay address (section 1.2), also used for other two-byte numbers. -/
abbrev Addr := BitVec 16

/-- One of the eight lines, 0 to 7. -/
abbrev Line := Fin 8

/-- One of the 128 slots, S0 to S127. -/
abbrev SlotIx := Fin 128

/-- A set of lines as the part reports it: bit `n` is set when line `n` is a member (R180). -/
abbrev LineSet := BitVec 8

end Sys2Proof
end

