-- ==== Sys2Proof/Syntax.lean ====
section
/-! DEFINITION. The commands of the block: one constructor for each row of spec/opcode_table.json.
A command is an event on a pin, a timer expiry, a step of the part, or the execution completion of
the management agent's current command. The table gives no row any bits. -/

namespace Sys2Proof

/-- A level of a receive input (R17, R178: RXD high is mark). -/
inductive Level where
  | space
  | mark
  deriving DecidableEq, Repr

/-- One character as the receiver's sampler delivers it at the middle of its first stop bit (R17):
the eight data bits, the parity bit (not sampled, hence ignored, when the parity is NONE), and the
level found in the first stop bit. -/
structure RxChar where
  data : Byte
  parity : Bool
  stop : Level
  deriving DecidableEq, Repr

/-- The 48 rows of the table of operations and events. A row that concerns one line carries its
number. The rows IDENT to RESTART are execution completions (R132): their operands stand in the
payload of the current command's slot, so the constructors carry none. -/
inductive Instr where
  /-- RSTN_ASSERT: RSTn is taken low (R173). -/
  | rstnAssert
  /-- RSTN_RELEASE: RSTn is released while the straps stand at the given levels (R173, R174). -/
  | rstnRelease (addr : BitVec 4) (msel : BitVec 3)
  /-- CHARACTER_RECEIVED: a character ends at the receiver of line `k` (R17). -/
  | characterReceived (k : Line) (c : RxChar)
  /-- GAP_TIMER_EXPIRY (R27). -/
  | gapTimerExpiry (k : Line)
  /-- QUIET_TIMER_EXPIRY (R30). -/
  | quietTimerExpiry (k : Line)
  /-- RECEIVE_COMPLETION: a good second check character of value `b` ends on line `k` (R28). -/
  | receiveCompletion (k : Line) (b : Byte)
  /-- RESERVATION_GRANT: one grant from the set of waiters (R45). -/
  | reservationGrant
  /-- TRANSMIT_SELECTION on a DIRECT line (R82). -/
  | transmitSelection (k : Line)
  /-- POLLED_TURN on a POLLED line (R113). -/
  | polledTurn (k : Line)
  /-- TRANSMIT_COMPLETION (R32, R84). -/
  | transmitCompletion (k : Line)
  /-- CONFIRM_TIMER_EXPIRY (R97). -/
  | confirmTimerExpiry (k : Line)
  /-- REPLY_WINDOW_EXPIRY (R124). -/
  | replyWindowExpiry (k : Line)
  /-- TURNAROUND_END (R35). -/
  | turnaroundEnd (k : Line)
  /-- POLL_PAUSE_EXPIRY (R117). -/
  | pollPauseExpiry (k : Line)
  /-- FAULT_TIMER_EXPIRY (R22). -/
  | faultTimerExpiry (k : Line)
  /-- RXD_RETURN_TO_MARK (R22, R23). -/
  | rxdReturnToMark (k : Line)
  /-- RXD_SPACE_IN_FAULT (R23). -/
  | rxdSpaceInFault (k : Line)
  /-- RECOVERY_TIMER_EXPIRY (R23). -/
  | recoveryTimerExpiry (k : Line)
  /-- AGENT_TAKE (R132). -/
  | agentTake
  /-- UNKNOWN_COMMAND: execution completion of a command whose code names none (R133). -/
  | unknownCommand
  /-- REPLY_WAIT_ROOM (R137). -/
  | replyWaitRoom
  /-- IDENT (R148). -/
  | ident
  /-- CLAIM (R140). -/
  | claim
  /-- RELEASE (R141). -/
  | release
  /-- ROUTE_READ (R74). -/
  | routeRead
  /-- ROUTE_WRITE (R72). -/
  | routeWrite
  /-- ROUTE_CLEAR (R73). -/
  | routeClear
  /-- ROUTE_COPY (R73). -/
  | routeCopy
  /-- ROUTE_COMMIT (R76, R77). -/
  | routeCommit
  /-- LINE_READ (R149). -/
  | lineRead
  /-- LINE_SET (R152 to R154). -/
  | lineSet
  /-- LINE_RESET (R155). -/
  | lineReset
  /-- POLL_READ (R130). -/
  | pollRead
  /-- POLL_WRITE (R127). -/
  | pollWrite
  /-- POLL_REMOVE (R128). -/
  | pollRemove
  /-- COUNT_READ (R156). -/
  | countRead
  /-- POOL_READ (R150). -/
  | poolRead
  /-- RELAY_READ (R151). -/
  | relayRead
  /-- RELAY_SET (R158, R159). -/
  | relaySet
  /-- NOTICE_READ (R151). -/
  | noticeRead
  /-- NOTICE_SET (R160). -/
  | noticeSet
  /-- NOTICE_ACK (R161, R169). -/
  | noticeAck
  /-- RESTART (R162). -/
  | restart
  /-- WARM_RESTART (R176). -/
  | warmRestart
  /-- LEASE_EXPIRY (R142). -/
  | leaseExpiry
  /-- NOTICE_SLOT_SERVED (R47). -/
  | noticeSlotServed
  /-- NOTICE_INTERVAL_EXPIRY (R170). -/
  | noticeIntervalExpiry
  /-- START_BIT: a space level begins a start bit on line `k`, and `mid` is the level found at its
  middle (R17). -/
  | startBit (k : Line) (mid : Level)
  deriving DecidableEq, Repr

end Sys2Proof
end

