-- ==== Sys2Proof/Config.lean ====
section
/-! DEFINITION. The constants of the part. The spec leaves no value of the machine open that a
command computes, so there is no opaque free value here (INVENTORY.md, What the manual leaves
open). -/

namespace Sys2Proof.Config

/-- The lead character (R2). -/
abbrev lead : Byte := 0xA7#8

/-- The broadcast address (Table 1-2). -/
abbrev broadcastAddr : Addr := 0xFFFF#16

/-- The longest payload (R1). -/
abbrev maxPayload : Nat := 56

/-- The fault timer in milliseconds (R22). -/
abbrev faultMs : Nat := 100

/-- The recovery timer in milliseconds (R23). -/
abbrev recoveryMs : Nat := 50

/-- The capacity of an urgent queue (R80). -/
abbrev urgentCap : Nat := 4

/-- The capacity of a pending-confirmation list (R106). -/
abbrev pendingConfCap : Nat := 4

/-- The capacity of a duplicate memo (R104). -/
abbrev memoCap : Nat := 8

/-- The capacity of the agent queue (R60, R131). -/
abbrev agentCap : Nat := 4

/-- The capacity of a poll list (R110). -/
abbrev pollCap : Nat := 16

/-- The part code IDENT reports (R148). -/
abbrev partCode : Addr := 0x3208#16

/-- The revision IDENT reports (R148). -/
abbrev revision : Byte := 1#8

/-- The pool size IDENT reports (R148). -/
abbrev poolSize : Byte := 128#8

/-- The reference clock in hertz (R16, R178). -/
abbrev refclkHz : Nat := 18432000

/-- The ADDR straps of `State.reset`. DESIGN CHOICE (log entry 1; unsafe): the straps are the board's. -/
abbrev resetAddrStraps : BitVec 4 := 0#4

/-- The MSEL straps of `State.reset`. DESIGN CHOICE (log entry 1; unsafe): the straps are the board's. -/
abbrev resetMselStraps : BitVec 3 := 0#3

end Sys2Proof.Config
end

