-- ==== Sys2Proof/Machine/Records.lean ====
section
/-! DEFINITION. The records the blocks of the part hold, and the value of each at the release of RSTn. -/

namespace Sys2Proof.Machine

/-! ## Frames and slots -/

/-- The eight kinds of frame (section 1.3), in the order of their codes (Table 12-2). -/
inductive Kind where
  | data | conf | poll | nil | mgmt | mreply | notice | ret
  deriving DecidableEq, Repr

/-- A Jetkan line frame: the seven fields of Table 1-1 (R1). `payload` lists the payload bytes stored
so far, which are exactly `len` bytes once the frame is whole. -/
structure Frame where
  dest : Addr
  src : Addr
  kind : Kind
  confirm : Bool
  seq : BitVec 4
  len : Nat
  payload : List Byte
  deriving DecidableEq, Repr

/-- The frame fields of a slot at power-on (R39). -/
def Frame.powerOn : Frame :=
  { dest := 0#16, src := 0#16, kind := .data, confirm := false, seq := 0#4, len := 0, payload := [] }

/-- A slot record (Table 3-1). The arrival `none` is the value "relay". -/
structure Slot where
  frame : Frame
  arrival : Option Line
  holders : Nat
  retry : Nat
  deriving DecidableEq, Repr

/-- A slot at power-on (R39). -/
def Slot.powerOn : Slot :=
  { frame := Frame.powerOn, arrival := none, holders := 0, retry := 0 }

/-! ## Line ports and line engines -/

/-- The mode field of the line configuration record (Table 2-1). -/
inductive Mode where
  | off | direct | polled
  deriving DecidableEq, Repr

/-- The parity field of the line configuration record (Table 2-1). -/
inductive Parity where
  | none | even | odd
  deriving DecidableEq, Repr

/-- The line configuration record (R13, Table 2-1), its fields in the table's order. -/
structure LineConfig where
  mode : Mode
  divisor : Nat
  parity : Parity
  stopBits : Nat
  gapLimit : Nat
  turnaround : Nat
  mgmtAccepted : Bool
  quota : Nat
  confirmTimeout : Nat
  retryLimit : Nat
  replyWindow : Nat
  missLimit : Nat
  burstLimit : Nat
  recheckCycles : Nat
  pollPause : Nat
  deriving DecidableEq, Repr

/-- The power-on values of Table 2-1 (R14): the management line's column when `mgmt` holds, else the
column for the other lines. -/
def LineConfig.powerOn (mgmt : Bool) : LineConfig :=
  { mode := if mgmt then .direct else .off
    divisor := 120
    parity := .none
    stopBits := 1
    gapLimit := 4
    turnaround := 2
    mgmtAccepted := mgmt
    quota := 24
    confirmTimeout := 50
    retryLimit := 3
    replyWindow := 20
    missLimit := 3
    burstLimit := 4
    recheckCycles := 8
    pollPause := 0 }

/-- The three line states (section 2.3). -/
inductive LineState where
  | off | active | fault
  deriving DecidableEq, Repr

/-- The receiver states of Table 2-5. `stopped` is the receiver of a line that is OFF or in FAULT;
the number is how many bytes of the part named have been stored. -/
inductive RxPhase where
  | stopped
  | hunt
  | head (got : Nat)
  | body (got : Nat)
  | trail (got : Nat)
  | skip
  deriving DecidableEq, Repr

/-- The receiver of a line port: its state, the check register of R11, whether it is in the break
condition and whether it is inside a character (R17), and its gap and quiet timers (R27, R30), each
holding the length it was started with while it runs. -/
structure Receiver where
  phase : RxPhase
  crc : BitVec 16
  brk : Bool
  inChar : Bool
  gap : Option Nat
  quiet : Option Nat
  deriving DecidableEq, Repr

/-- A receiver that starts in HUNT, not in a break condition, with no timer running (R20, R23, R38). -/
def Receiver.fresh : Receiver :=
  { phase := .hunt, crc := 0xFFFF#16, brk := false, inChar := false, gap := none, quiet := none }

/-- The receiver of a line that is OFF or in FAULT (section 2.4). -/
def Receiver.idleStopped : Receiver := { Receiver.fresh with phase := .stopped }

/-- What a line's transmit position holds while it is not empty (R81). -/
inductive TxItem where
  /-- A CONF built from the head entry of the pending-confirmation list; it occupies no slot. -/
  | conf (f : Frame)
  /-- A POLL built for a poll entry; it occupies no slot. -/
  | poll (f : Frame)
  /-- A slot reference taken from the urgent queue. -/
  | urgent (i : SlotIx)
  /-- A slot reference taken from the normal queue. -/
  | normal (i : SlotIx)
  /-- A second reference to the slot of the await record, for a retransmission. -/
  | resend (i : SlotIx)
  deriving DecidableEq, Repr

/-- The await record in its four states (Table 6-1), with the slot it refers to. -/
inductive Await where
  | empty
  | waiting (i : SlotIx)
  | due (i : SlotIx)
  | resending (i : SlotIx)
  deriving DecidableEq, Repr

/-- An entry of the pending-confirmation list: the header of one CONF owed (R106). -/
structure ConfEntry where
  dest : Addr
  src : Addr
  seq : BitVec 4
  deriving DecidableEq, Repr

/-- An entry of the duplicate memo (R104). -/
structure MemoEntry where
  src : Addr
  seq : BitVec 4
  deriving DecidableEq, Repr

/-- Presence of a polled node (Table 7-1). -/
inductive Presence where
  | present | suspect | absent
  deriving DecidableEq, Repr

/-- An entry of a poll list (Table 7-1). -/
structure PollEntry where
  node : Addr
  presence : Presence
  miss : Nat
  deriving DecidableEq, Repr

/-- Whether a reply window follows a POLL or a confirmed DATA frame (Table 7-3). -/
inductive Origin where
  | poll | data
  deriving DecidableEq, Repr

/-- The window record (Table 7-3). Its origin and node have a meaning while it is OPEN or REPLYING. -/
inductive Window where
  | closed
  | opened (o : Origin) (node : Addr)
  | replying (o : Origin) (node : Addr)
  deriving DecidableEq, Repr

/-- The sixteen per-line counters, in the index order of Table 2-7. -/
inductive LineCounter where
  | rxGood | rxChar | rxGap | rxLength | rxCheck | rxNoslot | rxBreak | rxLate | rxDup
  | txSent | txRetry | txReturn | qRefused | pollMiss | confStale | confShed
  deriving DecidableEq, Repr

/-- The state of a line port and its line engine. A timer is `some n` while it runs, `n` being the
length it was started with (milliseconds, or character times for the turnaround wait). -/
structure LineRec where
  /-- the line configuration record (R13) -/
  config : LineConfig
  /-- the line state (section 2.3) -/
  state : LineState
  /-- the level of RXD as the port last took it (R22, R23) -/
  rxd : Level
  /-- the receiver (section 2.4) -/
  rx : Receiver
  /-- the turnaround wait of a POLLED line (R35) -/
  turnaround : Option Nat
  /-- the fault timer (R22) -/
  faultTimer : Option Nat
  /-- the recovery timer (R23) -/
  recovery : Option Nat
  /-- the receive reservation (R45) -/
  reservation : Option SlotIx
  /-- the transmit position (R81) -/
  tp : Option TxItem
  /-- the normal queue, head first (R78) -/
  normalQ : List SlotIx
  /-- the urgent queue, head first (R80) -/
  urgentQ : List SlotIx
  /-- the await record (R92) -/
  await : Await
  /-- the confirm timer (R93) -/
  confirmTimer : Option Nat
  /-- the pending-confirmation list, head first (R106) -/
  pendingConf : List ConfEntry
  /-- the duplicate memo, oldest first (R104) -/
  memo : List MemoEntry
  /-- the poll list (R110) -/
  pollList : List PollEntry
  /-- the poll position (R111) -/
  pollPos : Nat
  /-- the cycle count (R111) -/
  cycle : BitVec 4
  /-- the burst count (R111) -/
  burst : Nat
  /-- the window record (R118) -/
  window : Window
  /-- the reply window timer (R118) -/
  windowTimer : Option Nat
  /-- the poll pause timer (R117) -/
  pauseTimer : Option Nat
  /-- the per-line counters (R37) -/
  counters : Vector (BitVec 16) 16
  deriving DecidableEq, Repr

/-- A line at the release of RSTn (R14, R38, Table 11-1), before the pool grants a reservation. The
level recorded for RXD is a DESIGN CHOICE (log entry 2). -/
def LineRec.powerOn (mgmt : Bool) : LineRec :=
  { config := LineConfig.powerOn mgmt
    state := if mgmt then .active else .off
    rxd := .mark
    rx := if mgmt then Receiver.fresh else Receiver.idleStopped
    turnaround := none
    faultTimer := none
    recovery := none
    reservation := none
    tp := none
    normalQ := []
    urgentQ := []
    await := .empty
    confirmTimer := none
    pendingConf := []
    memo := []
    pollList := []
    pollPos := 0
    cycle := 0#4
    burst := 0
    window := .closed
    windowTimer := none
    pauseTimer := none
    counters := Vector.replicate 16 0#16 }

/-! ## Slot pool -/

/-- The two pool states (R48). -/
inductive PoolState where
  | normal | low
  deriving DecidableEq, Repr

/-- The slot pool beside its slot records: the free list with its head first (R42), the pool state
and water marks (R48), the set of reservation waiters and the line last granted (R45, R46), the
reserve (R44), and whether a notice allocation waits (R47). -/
structure Pool where
  free : List SlotIx
  state : PoolState
  waiters : LineSet
  lastGranted : Line
  reserve : Nat
  lowMark : Nat
  highMark : Nat
  noticeWaiting : Bool
  deriving DecidableEq, Repr

/-- All slot numbers in index order (R54, R55). -/
def allSlots : List SlotIx := List.finRange 128

/-- The pool at the release of RSTn, before the management line's request (R54). -/
def Pool.powerOn : Pool :=
  { free := allSlots
    state := .normal
    waiters := 0#8
    lastGranted := 7
    reserve := 2
    lowMark := 12
    highMark := 24
    noticeWaiting := false }

/-! ## Route unit -/

/-- The target of a route entry, and the default action (Tables 4-1, 4-2). -/
inductive Target where
  | line (k : Line)
  | discard
  deriving DecidableEq, Repr

/-- The rewrite of a route entry (Table 4-1). -/
inductive Rewrite where
  | keep | shift
  deriving DecidableEq, Repr

/-- A route entry (Table 4-1). -/
structure RouteEntry where
  valid : Bool
  low : Addr
  high : Addr
  target : Target
  rewrite : Rewrite
  base : Addr
  arrivals : LineSet
  hairpin : Bool
  deriving DecidableEq, Repr

/-- A route entry at power-on (R57). -/
def RouteEntry.powerOn : RouteEntry :=
  { valid := false, low := 0#16, high := 0#16, target := .discard, rewrite := .keep, base := 0#16,
    arrivals := 0#8, hairpin := false }

/-- A route table: 64 entries (R56). -/
abbrev RouteTable := Vector RouteEntry 64

/-- The seven relay-wide counters, in the index order of Table 9-2. -/
inductive RelayCounter where
  | invalid | unrouted | filtered | hairpin | discarded | bcastShed | agentFull
  deriving DecidableEq, Repr

/-- The route unit: both tables (R57), the generation (R75), the relay settings (R58) and the
relay-wide counters (R71). -/
structure RouteUnit where
  active : RouteTable
  shadow : RouteTable
  generation : BitVec 16
  relayAddr : Addr
  defaultAction : Target
  broadcastSet : LineSet
  counters : Vector (BitVec 16) 7
  deriving DecidableEq, Repr

/-- The route unit at the release of RSTn with the given ADDR straps (R4, R57, R58, R71). -/
def RouteUnit.powerOn (addr : BitVec 4) : RouteUnit :=
  { active := Vector.replicate 64 RouteEntry.powerOn
    shadow := Vector.replicate 64 RouteEntry.powerOn
    generation := 0#16
    relayAddr := 0xFE00#16 + addr.setWidth 16
    defaultAction := .discard
    broadcastSet := 0#8
    counters := Vector.replicate 7 0#16 }

/-! ## Management agent -/

/-- The agent states of Table 8-1. -/
inductive AgentState where
  | idle | executing | replyWait | restartPending
  deriving DecidableEq, Repr

/-- The holder of the edit claim (Table 8-4). -/
structure Claim where
  holder : Addr
  line : Line
  deriving DecidableEq, Repr

/-- The reply cache's contents: a code, a tag and a reply payload, which is the status, the detail
and the results (R143). -/
structure CacheEntry where
  code : Byte
  tag : Byte
  reply : List Byte
  deriving DecidableEq, Repr

/-- The management agent: its queue, current command and state (R131), the edit claim record (R138;
`claim = none` is FREE, `lease` is the running lease timer's length in seconds), and, while it is
RESTART-PENDING, the slot of the RESTART reply that is still to be sent (R145). -/
structure Agent where
  queue : List SlotIx
  current : Option SlotIx
  state : AgentState
  restartReply : Option SlotIx
  claim : Option Claim
  lease : Option Nat
  leaseSetting : Nat
  cache : Option CacheEntry
  deriving DecidableEq, Repr

/-- The management agent at the release of RSTn (R131, R138). -/
def Agent.powerOn : Agent :=
  { queue := [], current := none, state := .idle, restartReply := none, claim := none, lease := none,
    leaseSetting := 60, cache := none }

/-! ## Notice unit -/

/-- The eight notice kinds in priority order, which is the order of their codes (Tables 10-1, 12-3). -/
inductive NoticeKind where
  | restarted | lineChange | poolLow | nodeLost | nodeFound | claimLapsed | counterFull | unrouted
  deriving DecidableEq, Repr

/-- A notice record (R163). -/
structure NoticeRecord where
  pending : Bool
  count : BitVec 8
  line : Option Line
  value : Option Addr
  deriving DecidableEq, Repr

/-- A record with nothing pending (R171). -/
def NoticeRecord.clear : NoticeRecord :=
  { pending := false, count := 0#8, line := none, value := none }

/-- The two notice states (section 10.3). -/
inductive NoticeState where
  | idle | outstanding
  deriving DecidableEq, Repr

/-- The notice unit: its records by kind code (R163), its settings (R165; bit `n` of `mask` masks the
kind of code `n`), its state and sequence (R166 to R168), the listed set (R167), the interval timer
(R168) and the building reference (R47). -/
structure NoticeUnit where
  records : Vector NoticeRecord 8
  mask : BitVec 8
  address : Addr
  interval : Nat
  state : NoticeState
  seq : BitVec 4
  listed : List (NoticeKind × BitVec 8)
  timer : Option Nat
  building : Option SlotIx
  deriving DecidableEq, Repr

/-- The notice unit at the release of RSTn, before RESTARTED is raised (R171). -/
def NoticeUnit.powerOn : NoticeUnit :=
  { records := Vector.replicate 8 NoticeRecord.clear
    mask := 0xFF#8
    address := 0#16
    interval := 1000
    state := .idle
    seq := 0#4
    listed := []
    timer := none
    building := none }

/-- The record of RESTARTED after its one event at power-on (R171). -/
def NoticeRecord.restartedOnce : NoticeRecord :=
  { pending := true, count := 1#8, line := none, value := none }

end Sys2Proof.Machine
end

