-- ==== Sys2Proof/Machine/State.lean ====
section
/-! DEFINITION. The state of the JK3208 as plain data, the reasons a step can stop, and the state
right after the release of RSTn. -/

namespace Sys2Proof.Machine

/-- The reasons a step stops with a fault. There is none: the spec describes no event that stops the
part, and gives every command an effect in every state, which may be none at all (safe). -/
inductive Fault where
  deriving DecidableEq, Repr

/-- The reasons a command is refused. -/
inductive Refusal where
  /-- Raised by an arm of `exec` whose command has no meaning yet (safe). No arm raises it. -/
  | notModelled (mnemonic : String)
  deriving DecidableEq, Repr

/-- The levels of the ADDR and MSEL straps as read at the last release of RSTn (R173). -/
structure Straps where
  addr : BitVec 4
  msel : BitVec 3
  deriving DecidableEq, Repr

/-- The state of the part, with the queue of commands that wait to be taken. The outputs DE, TXD and
FLT are computed from it (Machine/Flags.lean). -/
structure State where
  /-- whether RSTn is held low (R173) -/
  rstnLow : Bool
  straps : Straps
  lines : Vector LineRec 8
  slots : Vector Slot 128
  pool : Pool
  route : RouteUnit
  agent : Agent
  notice : NoticeUnit
  /-- the commands waiting, first in first out -/
  pending : List Instr
  deriving DecidableEq, Repr

/-- The line the MSEL straps name (R14). -/
def Straps.mgmtLine (p : Straps) : Line := p.msel.toFin

/-- The part while RSTn is held low (R173): nothing is held, no line is up, no timer runs. What the
fields hold cannot be observed; that they hold the power-on contents without the management line is a
DESIGN CHOICE (log entry 3). -/
def State.heldInReset (p : Straps) : State :=
  { rstnLow := true
    straps := p
    lines := Vector.replicate 8 (LineRec.powerOn false)
    slots := Vector.replicate 128 Slot.powerOn
    pool := Pool.powerOn
    route := RouteUnit.powerOn p.addr
    agent := Agent.powerOn
    notice := NoticeUnit.powerOn
    pending := [] }

/-- The state at the end of the event of RSTn's release (R54, R171, R174, Table 11-1): every block in
its power-on state, the management line ACTIVE with S0 as its reservation, RESTARTED raised. -/
def State.powerOn (p : Straps) : State :=
  { rstnLow := false
    straps := p
    lines := (Vector.replicate 8 (LineRec.powerOn false)).set p.mgmtLine
      { LineRec.powerOn true with reservation := some 0 }
    slots := (Vector.replicate 128 Slot.powerOn).set 0
      { Slot.powerOn with arrival := some p.mgmtLine, holders := 1 }
    pool := { Pool.powerOn with free := allSlots.tail, lastGranted := p.mgmtLine }
    route := RouteUnit.powerOn p.addr
    agent := Agent.powerOn
    notice :=
      { NoticeUnit.powerOn with
        records := NoticeUnit.powerOn.records.set 0 NoticeRecord.restartedOnce }
    pending := [] }

/-- The machine right after reset: the state at the release of RSTn with the straps of Config. -/
def State.reset : State :=
  State.powerOn { addr := Config.resetAddrStraps, msel := Config.resetMselStraps }

end Sys2Proof.Machine
end

