-- ==== Sys2Proof/Machine/Ops.lean ====
section
/-! DEFINITION. The named reads and updates of the state that every meaning is built from. -/

namespace Sys2Proof.Machine

/-! ## Lines, slots and blocks -/

/-- The eight lines in ascending order. -/
def allLines : List Line := [0, 1, 2, 3, 4, 5, 6, 7]

/-- The record of line `k`. -/
def State.line (s : State) (k : Line) : LineRec := s.lines.get k

/-- Replaces the record of line `k`. -/
def State.setLine (s : State) (k : Line) (l : LineRec) : State :=
  { s with lines := s.lines.set k l }

/-- Changes the record of line `k` by `f`. -/
def State.modLine (s : State) (k : Line) (f : LineRec → LineRec) : State :=
  s.setLine k (f (s.line k))

/-- The record of slot `i`. -/
def State.slot (s : State) (i : SlotIx) : Slot := s.slots.get i

/-- Replaces the record of slot `i`. -/
def State.setSlot (s : State) (i : SlotIx) (x : Slot) : State :=
  { s with slots := s.slots.set i x }

/-- Changes the record of slot `i` by `f`. -/
def State.modSlot (s : State) (i : SlotIx) (f : Slot → Slot) : State :=
  s.setSlot i (f (s.slot i))

/-- Changes the frame held in slot `i` by `f`. -/
def State.modFrame (s : State) (i : SlotIx) (f : Frame → Frame) : State :=
  s.modSlot i (fun x => { x with frame := f x.frame })

/-- The frame held in slot `i`. -/
def State.frame (s : State) (i : SlotIx) : Frame := (s.slot i).frame

/-- Changes the pool record by `f`. -/
def State.modPool (s : State) (f : Pool → Pool) : State := { s with pool := f s.pool }

/-- Changes the route unit by `f`. -/
def State.modRoute (s : State) (f : RouteUnit → RouteUnit) : State := { s with route := f s.route }

/-- Changes the management agent by `f`. -/
def State.modAgent (s : State) (f : Agent → Agent) : State := { s with agent := f s.agent }

/-- Changes the notice unit by `f`. -/
def State.modNotice (s : State) (f : NoticeUnit → NoticeUnit) : State :=
  { s with notice := f s.notice }

/-! ## Sets of lines -/

/-- Whether line `k` is a member of the set. -/
def LineSet.has (x : LineSet) (k : Line) : Bool := x.getLsbD k.val

/-- The set with the one member `k`. -/
def LineSet.single (k : Line) : LineSet := 1#8 <<< k.val

/-- The set with `k` added. -/
def LineSet.insert (x : LineSet) (k : Line) : LineSet := x ||| LineSet.single k

/-- The set with `k` taken out. -/
def LineSet.erase (x : LineSet) (k : Line) : LineSet := x &&& ~~~(LineSet.single k)

/-! ## Counters -/

/-- An increment that stays at 65535 (R37, R71, R157). -/
def satInc (c : BitVec 16) : BitVec 16 := if c = 0xFFFF#16 then c else c + 1#16

/-- The index of a per-line counter (Table 2-7). -/
def LineCounter.index : LineCounter → Fin 16
  | .rxGood => 0 | .rxChar => 1 | .rxGap => 2 | .rxLength => 3 | .rxCheck => 4 | .rxNoslot => 5
  | .rxBreak => 6 | .rxLate => 7 | .rxDup => 8 | .txSent => 9 | .txRetry => 10 | .txReturn => 11
  | .qRefused => 12 | .pollMiss => 13 | .confStale => 14 | .confShed => 15

/-- The index of a relay-wide counter (Table 9-2). -/
def RelayCounter.index : RelayCounter → Fin 7
  | .invalid => 0 | .unrouted => 1 | .filtered => 2 | .hairpin => 3 | .discarded => 4
  | .bcastShed => 5 | .agentFull => 6

/-- A counter of a line. -/
def LineRec.counter (l : LineRec) (c : LineCounter) : BitVec 16 := l.counters.get c.index

/-- A relay-wide counter. -/
def RouteUnit.counter (r : RouteUnit) (c : RelayCounter) : BitVec 16 := r.counters.get c.index

/-- Increments a counter of line `k`, without the event of R37. -/
def State.bumpLine (s : State) (k : Line) (c : LineCounter) : State :=
  s.modLine k (fun l => { l with counters := l.counters.set c.index (satInc (l.counter c)) })

/-- Increments a relay-wide counter, without the event of R71. -/
def State.bumpRelay (s : State) (c : RelayCounter) : State :=
  s.modRoute (fun r => { r with counters := r.counters.set c.index (satInc (r.counter c)) })

/-! ## Events -/

/-- What a command answers: the state `f s`, when RSTn is high and the command's event can take place
in `s`; otherwise `s` as it stands (R173 for RSTn held low; log entry 4 for an event that cannot take
place, such as the expiry of a timer that is not running). -/
def when (s : State) (possible : Bool) (f : State → State) : Host.Outcome State Fault Refusal :=
  .next (if s.rstnLow || !possible then s else f s)

end Sys2Proof.Machine
end

