-- ==== Sys2Proof/Machine/Operands.lean ====
section
/-! DEFINITION. Bytes, codes and layouts: the forms in which operands and results stand in payloads
(chapter 12), and the bytes and characters of a frame on a line (chapters 1 and 2). -/

namespace Sys2Proof.Machine

/-! ## Two-byte numbers, high byte first (R180) -/

/-- The high byte of a two-byte number. -/
def hiByte (w : BitVec 16) : Byte := w.extractLsb' 8 8

/-- The low byte of a two-byte number. -/
def loByte (w : BitVec 16) : Byte := w.extractLsb' 0 8

/-- A two-byte number from its bytes. -/
def word16 (hi lo : Byte) : BitVec 16 := hi ++ lo

/-- A two-byte number as it stands in a payload. -/
def wordBytes (w : BitVec 16) : List Byte := [hiByte w, loByte w]

/-- A number as one byte. -/
def numByte (n : Nat) : Byte := BitVec.ofNat 8 n

/-- A number as two bytes, high first. -/
def numBytes2 (n : Nat) : List Byte := wordBytes (BitVec.ofNat 16 n)

/-- The byte at place `n` of a payload. -/
def byteAt (p : List Byte) (n : Nat) : Byte := p.getD n 0#8

/-- The two-byte number at place `n` of a payload. -/
def wordAt (p : List Byte) (n : Nat) : BitVec 16 := word16 (byteAt p n) (byteAt p (n + 1))

/-! ## Codes (Tables 12-2 and 12-3) -/

/-- Kind codes (Table 12-2). -/
def Kind.code : Kind → BitVec 3
  | .data => 0#3 | .conf => 1#3 | .poll => 2#3 | .nil => 3#3
  | .mgmt => 4#3 | .mreply => 5#3 | .notice => 6#3 | .ret => 7#3

/-- The kind a 3-bit code names; every code names one (R179). -/
def Kind.ofCode (c : BitVec 3) : Kind :=
  match c.toNat with
  | 0 => .data | 1 => .conf | 2 => .poll | 3 => .nil
  | 4 => .mgmt | 5 => .mreply | 6 => .notice | _ => .ret

/-- Reply statuses (Table 8-2). -/
inductive Status where
  | ok | unknown | length | operand | noClaim | claimed | lineState | generation | table | stale
  | full
  deriving DecidableEq, Repr

/-- Status codes (Table 12-3). -/
def Status.code : Status → Byte
  | .ok => 0#8 | .unknown => 1#8 | .length => 2#8 | .operand => 3#8 | .noClaim => 4#8
  | .claimed => 5#8 | .lineState => 6#8 | .generation => 7#8 | .table => 8#8 | .stale => 9#8
  | .full => 10#8

/-- Reasons of a RETURN (R9). -/
inductive Reason where
  | noConfirm | absent | lineDown
  deriving DecidableEq, Repr

/-- RETURN reason codes (Table 12-3). -/
def Reason.code : Reason → Byte
  | .noConfirm => 1#8 | .absent => 2#8 | .lineDown => 3#8

/-- Notice kind codes (Table 12-3), which also order the records. -/
def NoticeKind.code : NoticeKind → Fin 8
  | .restarted => 0 | .lineChange => 1 | .poolLow => 2 | .nodeLost => 3 | .nodeFound => 4
  | .claimLapsed => 5 | .counterFull => 6 | .unrouted => 7

/-- The notice kinds in priority order (Table 10-1). -/
def allKinds : List NoticeKind :=
  [.restarted, .lineChange, .poolLow, .nodeLost, .nodeFound, .claimLapsed, .counterFull, .unrouted]

/-- A yes-or-no field (Table 12-3). -/
def boolByte (b : Bool) : Byte := if b then 1#8 else 0#8

/-- Mode codes (Table 12-3). -/
def Mode.code : Mode → Byte
  | .off => 0#8 | .direct => 1#8 | .polled => 2#8

/-- The mode a byte codes, if any. -/
def Mode.ofCode? (b : Byte) : Option Mode :=
  match b.toNat with
  | 0 => some .off | 1 => some .direct | 2 => some .polled | _ => none

/-- Parity codes (Table 12-3). -/
def Parity.code : Parity → Byte
  | .none => 0#8 | .even => 1#8 | .odd => 2#8

/-- The parity a byte codes, if any. -/
def Parity.ofCode? (b : Byte) : Option Parity :=
  match b.toNat with
  | 0 => some .none | 1 => some .even | 2 => some .odd | _ => Option.none

/-- The yes-or-no value a byte codes, if any. -/
def boolOfCode? (b : Byte) : Option Bool :=
  match b.toNat with
  | 0 => some false | 1 => some true | _ => none

/-- Target and default action codes (Table 12-3). -/
def Target.code : Target → Byte
  | .line k => numByte k.val
  | .discard => 8#8

/-- The line a byte names, if any. -/
def lineOfByte? (b : Byte) : Option Line :=
  if h : b.toNat < 8 then some ⟨b.toNat, h⟩ else none

/-- The target or default action a byte codes, if any. -/
def Target.ofCode? (b : Byte) : Option Target :=
  if b = 8#8 then some .discard else (lineOfByte? b).map .line

/-- Rewrite codes (Table 12-3). -/
def Rewrite.code : Rewrite → Byte
  | .keep => 0#8 | .shift => 1#8

/-- The rewrite a byte codes, if any. -/
def Rewrite.ofCode? (b : Byte) : Option Rewrite :=
  match b.toNat with
  | 0 => some .keep | 1 => some .shift | _ => none

/-- Line state codes (Table 12-3). -/
def LineState.code : LineState → Byte
  | .off => 0#8 | .active => 1#8 | .fault => 2#8

/-- Pool state codes (Table 12-3). -/
def PoolState.code : PoolState → Byte
  | .normal => 0#8 | .low => 1#8

/-- Presence codes (Table 12-3). -/
def Presence.code : Presence → Byte
  | .present => 0#8 | .suspect => 1#8 | .absent => 2#8

/-- Notice state codes (Table 12-3). -/
def NoticeState.code : NoticeState → Byte
  | .idle => 0#8 | .outstanding => 1#8

/-- A line-or-none (R180). -/
def lineOrNone : Option Line → Byte
  | some k => numByte k.val
  | none => 0xFF#8

/-- A value-or-none (R180). -/
def valueOrNone : Option Addr → List Byte
  | some v => wordBytes v
  | none => [0xFF#8, 0xFF#8]

/-! ## The control byte (Table 12-2) -/

/-- A control byte: kind in bits 7 to 5, confirm in bit 4, sequence in bits 3 to 0. -/
def controlByte (k : Kind) (confirm : Bool) (seq : BitVec 4) : Byte :=
  k.code ++ BitVec.ofBool confirm ++ seq

/-- The kind field of a control byte. -/
def controlKind (b : Byte) : Kind := Kind.ofCode (b.extractLsb' 5 3)

/-- The confirm field of a control byte. -/
def controlConfirm (b : Byte) : Bool := b.getLsbD 4

/-- The sequence field of a control byte. -/
def controlSeq (b : Byte) : BitVec 4 := b.extractLsb' 0 4

/-! ## The check (R11) -/

/-- One bit of the check computation: shift left, and combine with 1021h when the bit shifted out
differs from the data bit. -/
def crcBit (reg : BitVec 16) (bit : Bool) : BitVec 16 :=
  let shifted := reg <<< 1
  if reg.getLsbD 15 != bit then shifted ^^^ 0x1021#16 else shifted

/-- One byte of the check computation, most significant bit first. -/
def crcByte (reg : BitVec 16) (b : Byte) : BitVec 16 :=
  [7, 6, 5, 4, 3, 2, 1, 0].foldl (fun r n => crcBit r (b.getLsbD n)) reg

/-- The check register after a run of bytes. -/
def crcRun (reg : BitVec 16) (bs : List Byte) : BitVec 16 := bs.foldl crcByte reg

/-- The check over a run of bytes, the register beginning at FFFFh. -/
def crcOf (bs : List Byte) : BitVec 16 := crcRun 0xFFFF#16 bs

/-! ## The frame on a line (R2, R179, Table 12-1) -/

/-- The six header bytes of a frame. -/
def Frame.headerBytes (f : Frame) : List Byte :=
  [hiByte f.dest, loByte f.dest, hiByte f.src, loByte f.src,
   controlByte f.kind f.confirm f.seq, numByte f.len]

/-- The bytes the check covers: header and payload. -/
def Frame.coveredBytes (f : Frame) : List Byte := f.headerBytes ++ f.payload

/-- The check of a frame. -/
def Frame.check (f : Frame) : BitVec 16 := crcOf f.coveredBytes

/-- The characters of a frame in the order they are sent: lead, header, payload, check (R32). -/
def Frame.wireBytes (f : Frame) : List Byte :=
  Config.lead :: (f.coveredBytes ++ wordBytes f.check)

/-- The number of characters a frame occupies (R2). -/
def Frame.charCount (f : Frame) : Nat := 9 + f.len

/-! ## Characters (R16, R18) -/

/-- The number of ones among eight data bits. -/
def onesCount (b : Byte) : Nat :=
  [0, 1, 2, 3, 4, 5, 6, 7].foldl (fun n i => n + (b.getLsbD i).toNat) 0

/-- The parity bit a character carries, where the parity is EVEN or ODD (R16). -/
def parityBit (p : Parity) (b : Byte) : Option Bool :=
  match p with
  | .none => none
  | .even => some (onesCount b % 2 == 1)
  | .odd => some (onesCount b % 2 == 0)

/-- A level for a bit: mark for one, space for zero. -/
def levelOfBit (b : Bool) : Level := if b then .mark else .space

/-- The levels of one character as the transmitter sends it, one per bit time: a start bit at space,
the data bits least significant first, the parity bit where configured, the stop bits at mark
(R16, R18). -/
def charLevels (c : LineConfig) (b : Byte) : List Level :=
  .space :: ([0, 1, 2, 3, 4, 5, 6, 7].map (fun i => levelOfBit (b.getLsbD i)) ++
    (parityBit c.parity b).toList.map levelOfBit ++ List.replicate c.stopBits .mark)

/-- The number of bit times of a character (R16): 10, 11 or 12. -/
def LineConfig.charBits (c : LineConfig) : Nat :=
  9 + (if c.parity = .none then 0 else 1) + c.stopBits

/-- The number of reference clock periods in a bit time (R16). -/
def LineConfig.bitClocks (c : LineConfig) : Nat := 16 * c.divisor

/-- The number of reference clock periods in a character time (R16). -/
def LineConfig.charClocks (c : LineConfig) : Nat := c.charBits * c.bitClocks

/-- What the receiver finds a character to be (R17). -/
inductive CharClass where
  | brk | framing | parity | good
  deriving DecidableEq, Repr

/-- The classes of R17, points 2 to 5, taken in that order. -/
def classify (p : Parity) (c : RxChar) : CharClass :=
  if c.stop = .space then
    if c.data = 0#8 then .brk else .framing
  else
    match parityBit p c.data with
    | none => .good
    | some b => if c.parity = b then .good else .parity

/-! ## Storing a header byte (R26, R39) -/

/-- The frame after the receiver stores header byte number `n`, counted from 0. The length byte also
empties the payload, whose bytes are stored after it. -/
def storeHeader (n : Nat) (b : Byte) (f : Frame) : Frame :=
  match n with
  | 0 => { f with dest := word16 b (loByte f.dest) }
  | 1 => { f with dest := word16 (hiByte f.dest) b }
  | 2 => { f with src := word16 b (loByte f.src) }
  | 3 => { f with src := word16 (hiByte f.src) b }
  | 4 => { f with kind := controlKind b, confirm := controlConfirm b, seq := controlSeq b }
  | _ => { f with len := b.toNat, payload := [] }

/-! ## Route entries in payloads (Table 12-4) -/

/-- The eight fields of a route entry as ROUTE-READ reports them. -/
def RouteEntry.bytes (e : RouteEntry) : List Byte :=
  [boolByte e.valid] ++ wordBytes e.low ++ wordBytes e.high ++ [e.target.code, e.rewrite.code] ++
    wordBytes e.base ++ [e.arrivals, boolByte e.hairpin]

/-- The seventeen bytes of a configuration record's fifteen fields, in the order of Table 2-1. -/
def LineConfig.bytes (c : LineConfig) : List Byte :=
  [c.mode.code] ++ numBytes2 c.divisor ++
    [c.parity.code, numByte c.stopBits, numByte c.gapLimit, numByte c.turnaround,
     boolByte c.mgmtAccepted, numByte c.quota] ++ numBytes2 c.confirmTimeout ++
    [numByte c.retryLimit, numByte c.replyWindow, numByte c.missLimit, numByte c.burstLimit,
     numByte c.recheckCycles, numByte c.pollPause]

/-- A notice record as NOTICE-READ reports it. -/
def NoticeRecord.bytes (r : NoticeRecord) : List Byte :=
  [boolByte r.pending, r.count, lineOrNone r.line] ++ valueOrNone r.value

/-- A notice record's entry in a NOTICE payload (Table 12-5). -/
def NoticeRecord.entryBytes (q : NoticeKind) (r : NoticeRecord) : List Byte :=
  [numByte q.code.val, r.count, lineOrNone r.line] ++ valueOrNone r.value

end Sys2Proof.Machine
end

