-- ==== Sys2Proof/Machine/Flags.lean ====
section
/-! DEFINITION. The conditions and outputs that are computed from the state: the DE, TXD and FLT
outputs, whether a line may transmit, the pool state a free list length gives, and the emission
condition of the notice unit. -/

namespace Sys2Proof.Machine

/-! ## Outputs -/

/-- The DE output of line `k` (R34, R35): on an ACTIVE DIRECT line asserted throughout, on an ACTIVE
POLLED line asserted while a frame is being sent; negated otherwise and while RSTn is low (R173). -/
def State.de (s : State) (k : Line) : Bool :=
  !s.rstnLow && decide ((s.line k).state = .active) &&
    (match (s.line k).config.mode with
     | .off => false
     | .direct => true
     | .polled => (s.line k).tp.isSome)

/-- Whether FLT is pulled low: one or more lines are in FAULT (R24), and RSTn is high (R173). -/
def State.fltLow (s : State) : Bool :=
  !s.rstnLow && allLines.any (fun k => decide ((s.line k).state = .fault))

/-- The frame the transmit position of line `k` holds (R81). -/
def State.txFrame (s : State) (k : Line) : Option Frame :=
  match (s.line k).tp with
  | none => none
  | some (.conf f) => some f
  | some (.poll f) => some f
  | some (.urgent i) => some (s.frame i)
  | some (.normal i) => some (s.frame i)
  | some (.resend i) => some (s.frame i)

/-- The levels TXD of line `k` takes over the transmission in progress, one per bit time (R18, R32).
With none in progress, and while RSTn is low, it is empty: TXD is at mark. -/
def State.txLevels (s : State) (k : Line) : List Level :=
  if s.rstnLow then []
  else
    match s.txFrame k with
    | none => []
    | some f => f.wireBytes.flatMap (charLevels (s.line k).config)

/-! ## Lines -/

/-- The receiver of the line takes no characters because its own driver is enabled (R35). -/
def LineRec.deaf (l : LineRec) : Bool := decide (l.config.mode = .polled) && l.tp.isSome

/-- The receiver can take a character: the line is ACTIVE, not in a break condition (R17), and not
sending on a POLLED line (R35). -/
def LineRec.listening (l : LineRec) : Bool :=
  decide (l.state = .active) && !l.rx.brk && !l.deaf

/-- A POLLED line is past turnaround (R35). -/
def LineRec.pastTurnaround (l : LineRec) : Bool :=
  decide (l.rx.phase = .hunt) && decide (l.window = .closed) && l.turnaround.isNone

/-- A DIRECT line whose line engine selects when a source has something to send (R82). -/
def LineRec.selects (l : LineRec) : Bool :=
  decide (l.state = .active) && decide (l.config.mode = .direct) && l.tp.isNone

/-- A POLLED line whose line engine takes a turn (R113). -/
def LineRec.takesTurn (l : LineRec) : Bool :=
  decide (l.state = .active) && decide (l.config.mode = .polled) && l.tp.isNone && l.pastTurnaround

/-- Whether a slot's frame is a confirmed DATA frame (R84). -/
def Frame.confirmedData (f : Frame) : Bool := decide (f.kind = .data) && f.confirm

/-! ## Validity (R12) -/

/-- The validity checks of R12, with the relay address in force. -/
def Frame.invalid (relay : Addr) (f : Frame) : Bool :=
  decide (f.dest = 0#16) ||
  decide (f.src = 0#16) || decide (f.src = 0xFFFF#16) ||
  (decide (f.kind = .conf ∨ f.kind = .poll ∨ f.kind = .nil) && decide (f.len ≠ 0)) ||
  (decide (f.kind = .mgmt) && decide (f.len < 2)) ||
  (!decide (f.kind = .mgmt ∨ f.kind = .poll ∨ f.kind = .nil) && decide (f.dest = relay))

/-! ## Pool -/

/-- The state the pool takes for its free list's length, from the state it is in (R48). -/
def Pool.evaluated (p : Pool) : PoolState :=
  match p.state with
  | .normal => if p.free.length < p.lowMark then .low else .normal
  | .low => if p.highMark ≤ p.free.length then .normal else .low

/-- A waiting line can be granted a reservation (R45). -/
def Pool.canGrant (p : Pool) : Bool :=
  decide (p.reserve < p.free.length) && decide (p.waiters ≠ 0#8)

/-- The line a grant goes to: the first waiter from the line after the one last granted, upward and
round (R45). -/
def Pool.nextWaiter (p : Pool) : Option Line :=
  (allLines.map (fun d => p.lastGranted + 1 + d)).find? (fun k => LineSet.has p.waiters k)

/-! ## Notices -/

/-- A kind is reported: its record is pending and it is not masked (R166, R167). -/
def NoticeUnit.reports (n : NoticeUnit) (q : NoticeKind) : Bool :=
  (n.records.get q.code).pending && !n.mask.getLsbD q.code.val

/-- The kinds a NOTICE built now would list, in priority order (R167). -/
def NoticeUnit.reported (n : NoticeUnit) : List NoticeKind := allKinds.filter n.reports

/-- The emission condition (R166). -/
def NoticeUnit.emits (n : NoticeUnit) : Bool :=
  decide (n.state = .idle) && decide (n.address ≠ 0#16) && !n.reported.isEmpty

/-! ## Agent -/

/-- The agent holds a built reply that waits for room (R136, R137, R145). -/
def Agent.waitsForRoom (a : Agent) : Bool :=
  (decide (a.state = .replyWait) || decide (a.state = .restartPending)) && a.current.isSome

/-- The warm restart is to be taken: the RESTART reply has been sent or released (R145). -/
def Agent.restartDue (a : Agent) : Bool :=
  decide (a.state = .restartPending) && a.restartReply.isNone

end Sys2Proof.Machine
end

