-- ==== Sys2Proof/Machine/Route.lean ====
section
/-! DEFINITION. What the route unit decides (chapter 4): pure functions of the route unit and a frame.
What is then done with the frame stands in Notice.lean and Forward.lean. -/

namespace Sys2Proof.Machine

/-- An entry takes part in the lookup of `d` and covers it (R56, R62). -/
def RouteEntry.covers (e : RouteEntry) (d : Addr) : Bool :=
  e.valid && decide (e.low ≤ d) && decide (d ≤ e.high)

/-- The first valid entry, in ascending index, that covers `d` (R62). -/
def lookup (t : RouteTable) (d : Addr) : Option RouteEntry :=
  t.toList.find? (fun e => e.covers d)

/-- The destination after an entry's rewrite (R66). -/
def RouteEntry.rewritten (e : RouteEntry) (d : Addr) : Addr :=
  match e.rewrite with
  | .keep => d
  | .shift => e.base + (d - e.low)

/-- Where a relay-originated frame goes (R69, R70). -/
inductive RelayVerdict where
  | forward (j : Line) (dest : Addr)
  | discard
  | unrouted
  deriving DecidableEq, Repr

/-- The decision for a relay-originated frame with destination `d` (R69): the first match or the
default action, without command test, broadcast rule, arrival set or hairpin test. -/
def decideRelay (r : RouteUnit) (d : Addr) : RelayVerdict :=
  match lookup r.active d with
  | some e =>
    match e.target with
    | .line j => .forward j (e.rewritten d)
    | .discard => .discard
  | none =>
    match r.defaultAction with
    | .line j => .forward j d
    | .discard => .unrouted

/-- Where a received frame goes (R59, Table 4-3). -/
inductive Verdict where
  | command
  | broadcast
  | forward (j : Line) (dest : Addr)
  | refuse (c : RelayCounter)
  deriving DecidableEq, Repr

/-- The tests of a deciding entry for a frame received on line `k` (R63 to R66), in that order. -/
def RouteEntry.verdict (e : RouteEntry) (k : Line) (d : Addr) : Verdict :=
  if !LineSet.has e.arrivals k then .refuse .filtered
  else
    match e.target with
    | .discard => .refuse .discarded
    | .line j => if j = k && !e.hairpin then .refuse .hairpin else .forward j (e.rewritten d)

/-- The default action for a frame received on line `k` (R68). -/
def decideDefault (t : Target) (k : Line) (d : Addr) : Verdict :=
  match t with
  | .discard => .refuse .unrouted
  | .line j => if j = k then .refuse .hairpin else .forward j d

/-- The decision for a valid received frame that the first look does not consume (R59). -/
def decideReceived (r : RouteUnit) (k : Line) (f : Frame) : Verdict :=
  if f.dest = r.relayAddr ∨ (f.dest = Config.broadcastAddr ∧ f.kind = .mgmt) then .command
  else if f.dest = Config.broadcastAddr then .broadcast
  else
    match lookup r.active f.dest with
    | some e => e.verdict k f.dest
    | none => decideDefault r.defaultAction k f.dest

/-- The check a commit makes of one valid entry (R76), computed without wrapping. -/
def RouteEntry.commitOk (e : RouteEntry) : Bool :=
  !e.valid ||
    (decide (e.low ≤ e.high) &&
      (decide (e.rewrite = .keep) ||
        decide (e.base.toNat + (e.high.toNat - e.low.toNat) ≤ 0xFFFF)))

/-- The index of the first entry that fails the commit check, if any (R76). -/
def commitFailure (t : RouteTable) : Option Nat :=
  t.toList.findIdx? (fun e => !e.commitOk)

end Sys2Proof.Machine
end

