-- ==== Sys2Proof/Machine/Notice.lean ====
section
/-! DEFINITION. The notice unit (chapter 10): recording events, building and handing over a NOTICE,
the emission test; and the counters, whose saturation gives COUNTER-FULL events. -/

namespace Sys2Proof.Machine

/-! ## References to slots -/

/-- Drops one reference to slot `i`: the holder count falls by one, and a slot whose count reaches 0
joins the tail of the free list (R41, R42). What the pool does after a release is `poolService`. -/
def dropRef (i : SlotIx) (s : State) : State :=
  let s' := s.modSlot i (fun x => { x with holders := x.holders - 1 })
  if (s.slot i).holders = 1 then s'.modPool (fun p => { p with free := p.free ++ [i] }) else s'

/-- Hands out the head of the free list with holder count 1, retry count 0 and the given arrival
(R43). On an empty free list there is nothing to hand out. -/
def allocate (arrival : Option Line) (s : State) : Option (SlotIx × State) :=
  match s.pool.free with
  | [] => none
  | i :: rest =>
    some (i, (s.modPool (fun p => { p with free := rest })).modSlot i
      (fun x => { x with arrival := arrival, holders := 1, retry := 0 }))

/-! ## Events -/

/-- Records an event against its kind (R164). -/
def recordEvent (q : NoticeKind) (line : Option Line) (value : Option Addr) (s : State) : State :=
  s.modNotice (fun n =>
    let r := n.records.get q.code
    { n with
      records := n.records.set q.code
        { pending := true
          count := if r.count = 0xFF#8 then r.count else r.count + 1#8
          line := line
          value := value } })

/-- Increments a relay-wide counter within the notice unit's own emission, where a COUNTER-FULL event
is recorded and no emission test can build anything (R166). -/
def countRelayInEmission (c : RelayCounter) (s : State) : State :=
  let s' := s.bumpRelay c
  if s.route.counter c = 0xFFFE#16 then
    recordEvent .counterFull none (some (BitVec.ofNat 16 c.index.val)) s'
  else s'

/-! ## Emission -/

/-- Offers slot `i` to the urgent queue of line `j` (R80): the state after, and whether it was
admitted. -/
def offerUrgent (j : Line) (i : SlotIx) (s : State) : State × Bool :=
  let l := s.line j
  if l.state = .active ∧ l.urgentQ.length < Config.urgentCap then
    (s.modLine j (fun l => { l with urgentQ := l.urgentQ ++ [i] }), true)
  else (s, false)

/-- The route unit's decision of a NOTICE in slot `i` (R69, R70, R168). -/
def routeNotice (i : SlotIx) (s : State) : State :=
  match decideRelay s.route (s.frame i).dest with
  | .forward j d =>
    let (s, ok) := offerUrgent j i (s.modFrame i (fun f => { f with dest := d }))
    if ok then s else dropRef i s
  | .discard => dropRef i (countRelayInEmission .discarded s)
  | .unrouted => dropRef i (countRelayInEmission .unrouted s)

/-- The payload of a NOTICE built now (R167, R182). -/
def NoticeUnit.payload (n : NoticeUnit) : List Byte :=
  numByte n.reported.length ::
    n.reported.flatMap (fun q => (n.records.get q.code).entryBytes q)

/-- The listed set a NOTICE built now records (R167). -/
def NoticeUnit.listing (n : NoticeUnit) : List (NoticeKind × BitVec 8) :=
  n.reported.map (fun q => (q, (n.records.get q.code).count))

/-- The NOTICE frame built now, with the sequence already stepped (R167, Table 1-3). -/
def noticeFrame (s : State) : Frame :=
  { dest := s.notice.address, src := s.route.relayAddr, kind := .notice, confirm := false,
    seq := s.notice.seq, len := s.notice.payload.length, payload := s.notice.payload }

/-- An emission from a free list that is not empty (R47, R167, R168): the slot is taken as the building
reference, the NOTICE built in it and handed to the route unit, and the unit enters OUTSTANDING with
its interval timer started, whatever became of the NOTICE. -/
def emitNotice (s : State) : State :=
  match allocate none s with
  | none => s
  | some (i, s) =>
    let s := s.modPool (fun p => { p with noticeWaiting := false })
    let s := s.modNotice (fun n => { n with building := some i, seq := n.seq + 1#4 })
    let s := s.modFrame i (fun _ => noticeFrame s)
    let s := s.modNotice (fun n => { n with listed := n.listing, building := none })
    let s := routeNotice i s
    s.modNotice (fun n => { n with state := .outstanding, timer := some n.interval })

/-- The emission test (R166): it asks for a slot, waits when the free list is empty, and withdraws a
waiting request whose condition has ended. -/
def emissionTest (s : State) : State :=
  if s.notice.emits then
    if s.pool.noticeWaiting then s
    else if s.pool.free = [] then s.modPool (fun p => { p with noticeWaiting := true })
    else emitNotice s
  else s.modPool (fun p => { p with noticeWaiting := false })

/-- An event given to the notice unit: it is recorded, and the emission test follows (R164, R166). -/
def noteEvent (q : NoticeKind) (line : Option Line) (value : Option Addr) (s : State) : State :=
  emissionTest (recordEvent q line value s)

/-! ## Counters -/

/-- Increments a counter of line `k`; the increment that brings it to 65535 gives COUNTER-FULL with
the line and the counter's index (R37, R157). -/
def countLine (k : Line) (c : LineCounter) (s : State) : State :=
  let s' := s.bumpLine k c
  if (s.line k).counter c = 0xFFFE#16 then
    noteEvent .counterFull (some k) (some (BitVec.ofNat 16 c.index.val)) s'
  else s'

/-- Increments a relay-wide counter; the increment that brings it to 65535 gives COUNTER-FULL with no
line and the counter's index (R71, R157). -/
def countRelay (c : RelayCounter) (s : State) : State :=
  let s' := s.bumpRelay c
  if s.route.counter c = 0xFFFE#16 then
    noteEvent .counterFull none (some (BitVec.ofNat 16 c.index.val)) s'
  else s'

end Sys2Proof.Machine
end

