-- ==== Sys2Proof/Machine/Pool.lean ====
section
/-! DEFINITION. The slot pool (chapter 3): grants, service after a release, the pool state. -/

namespace Sys2Proof.Machine

/-- Grants line `k` the head of the free list and records it as the line last granted (R45, R46). -/
def grantTo (k : Line) (s : State) : State :=
  match allocate (some k) s with
  | none => s
  | some (i, s) =>
    let s := s.modPool (fun p => { p with waiters := LineSet.erase p.waiters k, lastGranted := k })
    s.modLine k (fun l => { l with reservation := some i })

/-- One grant from the set of waiters, when the free list exceeds the reserve (R45). -/
def grantOne (s : State) : State :=
  if s.pool.canGrant then
    match s.pool.nextWaiter with
    | some k => grantTo k s
    | none => s
  else s

/-- Grants for as long as waiters remain and the free list exceeds the reserve (R45); there are at
most eight waiters. -/
def grantWaiters (s : State) : State :=
  allLines.foldl (fun s _ => grantOne s) s

/-- Serves a waiting notice request from a free list that is not empty (R47). -/
def serveNotice (s : State) : State :=
  if s.pool.noticeWaiting ∧ s.pool.free ≠ [] then emitNotice s else s

/-- What the pool does within the event of a release, after the append (R42): a waiting notice
allocation is served, then waiters are granted. The pool state is evaluated at the end of the event
(R48, `evaluatePool`). -/
def poolService (s : State) : State := grantWaiters (serveNotice s)

/-- Drops one reference to slot `i`, with the pool's service of R42. -/
def releaseRef (i : SlotIx) (s : State) : State := poolService (dropRef i s)

/-- Line `k` requests a receive reservation (R45). -/
def requestReservation (k : Line) (s : State) : State :=
  if s.pool.reserve < s.pool.free.length ∧ s.pool.waiters = 0#8 then grantTo k s
  else s.modPool (fun p => { p with waiters := LineSet.insert p.waiters k })

/-- Evaluates the pool state against the free list's length (R48); entry to LOW gives POOL-LOW with
the length as value. -/
def evaluatePool (s : State) : State :=
  let n := s.pool.free.length
  let s' := s.modPool (fun p => { p with state := p.evaluated })
  if s.pool.state = .normal ∧ s.pool.evaluated = .low then
    noteEvent .poolLow none (some (BitVec.ofNat 16 n)) s'
  else s'

end Sys2Proof.Machine
end

