-- ==== Sys2Proof/Machine/Forward.lean ====
section
/-! DEFINITION. What is done with frames by the route unit's decisions (chapters 3 to 6): admission to
normal queues, RETURN frames, broadcast, commands, and the CONFs and memo updates that follow. -/

namespace Sys2Proof.Machine

/-! ## Admission to a normal queue -/

/-- The admission test of R79: the line is ACTIVE and its normal queue is below its quota. -/
def LineRec.admits (l : LineRec) : Bool :=
  decide (l.state = .active) && decide (l.normalQ.length < l.config.quota)

/-- Offers slot `i` to the normal queue of line `j` (R79): it joins the tail, or Q_REFUSED is counted.
The second component says whether it was admitted. -/
def admitNormal (j : Line) (i : SlotIx) (s : State) : State × Bool :=
  if (s.line j).admits then
    (s.modLine j (fun l => { l with normalQ := l.normalQ ++ [i] }), true)
  else (countLine j .qRefused s, false)

/-! ## RETURN frames -/

/-- The RETURN made from frame `f` (R9, R101, R182). -/
def Frame.toReturn (f : Frame) (reason : Reason) (relay : Addr) : Frame :=
  { dest := f.src, src := relay, kind := .ret, confirm := false, seq := f.seq, len := 7
    payload := [reason.code] ++ wordBytes f.dest ++ wordBytes f.src ++
      [controlByte f.kind f.confirm f.seq, numByte f.len] }

/-- Rewrites the frame of slot `i` as a RETURN (R101): the arrival becomes "relay" and the retry count
0, and the holder count is kept. -/
def makeReturn (reason : Reason) (i : SlotIx) (s : State) : State :=
  s.modSlot i (fun x =>
    { x with frame := x.frame.toReturn reason s.route.relayAddr, arrival := none, retry := 0 })

/-- The route unit's decision of the RETURN in slot `i` (R69, R70, R102). A RETURN that is refused has
its reference dropped; the pool's service of the release is the caller's. For a RETURN refused as UNROUTED
the event and its emission test come before the drop, the order of R102; R70 lists the release first:
DESIGN CHOICE (log entry 5). -/
def routeReturn (i : SlotIx) (s : State) : State :=
  match decideRelay s.route (s.frame i).dest with
  | .forward j d =>
    let (s, ok) := admitNormal j i (s.modFrame i (fun f => { f with dest := d }))
    if ok then s else dropRef i s
  | .discard => dropRef i (countRelay .discarded s)
  | .unrouted =>
    dropRef i (noteEvent .unrouted none (some (s.frame i).dest) (countRelay .unrouted s))

/-- Makes a RETURN in slot `i` and hands it to the route unit, with the pool's service (R102). -/
def returnFrame (reason : Reason) (i : SlotIx) (s : State) : State :=
  poolService (routeReturn i (makeReturn reason i s))

/-! ## The broadcast rule -/

/-- Offers one copy of the broadcast in slot `i` to line `j` (R51). -/
def offerCopy (i : SlotIx) (s : State) (j : Line) : State :=
  let (s, ok) := admitNormal j i s
  if ok then s.modSlot i (fun x => { x with holders := x.holders + 1 }) else s

/-- The broadcast rule for the frame in slot `i`, received on line `k` (R50, R51). The reservation's
reference, which the slot still counts, is dropped last. The copies are offered in ascending line number; R51
gives no order: DESIGN CHOICE (log entry 5). -/
def broadcast (k : Line) (i : SlotIx) (s : State) : State :=
  let targets := LineSet.erase s.route.broadcastSet k
  if (s.frame i).kind ≠ .data ∨ targets = 0#8 ∨ s.pool.state = .low then
    releaseRef i (countRelay .bcastShed s)
  else
    let s := s.modFrame i (fun f => { f with confirm := false })
    let s := (allLines.filter (LineSet.has targets)).foldl (offerCopy i) s
    releaseRef i s

/-! ## Commands to this relay -/

/-- A MGMT frame in slot `i`, received on line `k` and decided as a command (R60). -/
def acceptCommand (k : Line) (i : SlotIx) (s : State) : State :=
  if !(s.line k).config.mgmtAccepted then releaseRef i (countRelay .filtered s)
  else if s.agent.queue.length < Config.agentCap then
    s.modAgent (fun a => { a with queue := a.queue ++ [i] })
  else releaseRef i (countRelay .agentFull s)

/-! ## The decision for a received frame -/

/-- Carries out the decision for the frame in slot `i`, received on line `k`, whose reservation has
passed to the decision (R59 to R68). The second component is the report to the line engine: whether
the frame was admitted to a normal queue by step 3 or 4. For a frame refused as UNROUTED the event, with the
NOTICE its emission test may build (R166), comes before the release of the slot, though R68 lists the release
first; with lines waiting and the free list at the reserve the NOTICE so takes a slot before a waiting line is
granted one: DESIGN CHOICE (log entry 5). -/
def routeReceived (k : Line) (i : SlotIx) (s : State) : State × Bool :=
  match decideReceived s.route k (s.frame i) with
  | .command => (acceptCommand k i s, false)
  | .broadcast => (broadcast k i s, false)
  | .forward j d =>
    let (s, ok) := admitNormal j i (s.modFrame i (fun f => { f with dest := d }))
    if ok then (s, true) else (releaseRef i s, false)
  | .refuse c =>
    let s' := countRelay c s
    let s' := if c = .unrouted then
        noteEvent .unrouted (some k) (some (s.frame i).dest) s' else s'
    (releaseRef i s', false)

/-! ## The receiving side of confirmed delivery -/

/-- Owes a CONF on line `k`: appended to the pending-confirmation list, or shed (R106). -/
def oweConf (k : Line) (e : ConfEntry) (s : State) : State :=
  if (s.line k).pendingConf.length < Config.pendingConfCap then
    s.modLine k (fun l => { l with pendingConf := l.pendingConf ++ [e] })
  else countLine k .confShed s

/-- The duplicate memo after a frame from `src` with sequence `q` is accepted (R105). -/
def memoAccept (m : List MemoEntry) (src : Addr) (q : BitVec 4) : List MemoEntry :=
  let others := m.filter (fun e => decide (e.src ≠ src))
  let kept := if others.length = m.length ∧ Config.memoCap ≤ m.length then m.tail else others
  kept ++ [{ src := src, seq := q }]

/-- The CONF owed for frame `f` as it was received (R6, R104, R105). -/
def Frame.confOwed (f : Frame) : ConfEntry := { dest := f.src, src := f.dest, seq := f.seq }

/-- The route unit's report for an admitted confirmed frame `f` (R105). -/
def acceptConfirmed (k : Line) (f : Frame) (s : State) : State :=
  oweConf k f.confOwed (s.modLine k (fun l => { l with memo := memoAccept l.memo f.src f.seq }))

/-- The receiving side of confirmed delivery applies to the frame (R103). -/
def Frame.wantsConf (f : Frame) : Bool :=
  f.confirmedData && decide (f.dest ≠ Config.broadcastAddr)

/-- The frame is a duplicate by the memo (R104). -/
def isDuplicate (m : List MemoEntry) (f : Frame) : Bool :=
  m.any (fun e => decide (e.src = f.src) && decide (e.seq = f.seq))

end Sys2Proof.Machine
end

