-- ==== Sys2Proof/Machine/Engine.lean ====
section
/-! DEFINITION. The line engine (chapters 5 to 7): the await record, presence and reply windows, the
flush, and what each transmission does when it begins and when it completes. -/

namespace Sys2Proof.Machine

/-! ## Timers of a line -/

/-- Starts the turnaround wait on a POLLED line; a turnaround of 0 ends the wait at once (R35). -/
def LineRec.startTurnaround (l : LineRec) : LineRec :=
  if l.config.mode = .polled then
    { l with turnaround := if l.config.turnaround = 0 then none else some l.config.turnaround }
  else l

/-! ## The await record -/

/-- The slot an await record refers to (R92). -/
def Await.slot? : Await → Option SlotIx
  | .empty => none
  | .waiting i => some i
  | .due i => some i
  | .resending i => some i

/-- The await record is occupied, as LINE-READ reports it (R92). -/
def Await.occupied (a : Await) : Bool := a.slot?.isSome

/-- Empties the await record of line `k` and stops its confirm timer. -/
def clearAwait (k : Line) (s : State) : State :=
  s.modLine k (fun l => { l with await := .empty, confirmTimer := none })

/-- A CONF with the given header matches the frame an await record holds (R94). -/
def Frame.confirmedBy (f c : Frame) : Bool :=
  decide (c.src = f.dest) && decide (c.dest = f.src) && decide (c.seq = f.seq)

/-- A CONF offered to the await record of line `k` (R94, R95): a match ends the await and drops the
record's reference, anything else is counted CONF_STALE. -/
def offerConf (k : Line) (c : Frame) (s : State) : State :=
  match (s.line k).await.slot? with
  | some i =>
    if (s.frame i).confirmedBy c then releaseRef i (clearAwait k s)
    else countLine k .confStale s
  | none => countLine k .confStale s

/-- The timer of a WAITING await record expires, or its window ends without a match (R97, R99). -/
def awaitExpiry (k : Line) (s : State) : State :=
  match (s.line k).await with
  | .waiting i =>
    if (s.slot i).retry < (s.line k).config.retryLimit then
      let s := s.modSlot i (fun x => { x with retry := x.retry + 1 })
      let s := s.modLine k (fun l => { l with await := .due i, confirmTimer := none })
      countLine k .txRetry s
    else
      returnFrame .noConfirm i (countLine k .txReturn (clearAwait k s))
  | .empty => s
  | .due _ => s
  | .resending _ => s

/-! ## Presence -/

/-- The poll list with the entry for `node`, if any, changed by `f`. -/
def updateEntry (node : Addr) (f : PollEntry → PollEntry) (es : List PollEntry) : List PollEntry :=
  es.map (fun e => if e.node = node then f e else e)

/-- The entry for `node`, if any. -/
def findEntry (node : Addr) (es : List PollEntry) : Option PollEntry :=
  es.find? (fun e => decide (e.node = node))

/-- A poll entry after a miss (R112, Table 7-2). The count goes on by one also where the miss limit has been
lowered to or below it, so that it then stands above the limit in force, against the bound that Table 7-1 notes
(R110): DESIGN CHOICE (log entry 17). -/
def PollEntry.afterMiss (limit : Nat) (e : PollEntry) : PollEntry :=
  match e.presence with
  | .absent => e
  | .present | .suspect =>
    { e with
      miss := e.miss + 1
      presence := if limit ≤ e.miss + 1 then .absent else .suspect }

/-- A poll entry after a good reply from its node (R112, Table 7-2), and as a flush or a POLL-WRITE
leaves it. -/
def PollEntry.reset (e : PollEntry) : PollEntry := { e with presence := .present, miss := 0 }

/-- Whether an entry's presence is ABSENT. -/
def PollEntry.isAbsent (e : PollEntry) : Bool := decide (e.presence = .absent)

/-- The frame awaiting on line `k` is returned when its destination has become ABSENT (R100). -/
def returnAbsentAwait (k : Line) (node : Addr) (s : State) : State :=
  match (s.line k).await with
  | .waiting i | .due i =>
    if (s.frame i).dest = node then returnFrame .absent i (clearAwait k s) else s
  | .empty => s
  | .resending _ => s

/-- A miss for `node` on line `k` (R112): the entry becomes SUSPECT or ABSENT, with NODE-LOST when it
becomes ABSENT, and then an awaiting frame for the node is returned (R100). That NODE-LOST, whose NOTICE may take
a slot, comes before the RETURN is a DESIGN CHOICE (log entry 5). -/
def presenceMiss (k : Line) (node : Addr) (s : State) : State :=
  let l := s.line k
  let s' := s.modLine k (fun l =>
    { l with pollList := updateEntry node (PollEntry.afterMiss l.config.missLimit) l.pollList })
  match findEntry node l.pollList with
  | none => s
  | some e =>
    if !e.isAbsent && (e.afterMiss l.config.missLimit).isAbsent then
      returnAbsentAwait k node (noteEvent .nodeLost (some k) (some node) s')
    else s'

/-- A good reply from `node` on line `k` (R112, R121): PRESENT with miss count 0, with NODE-FOUND when
the entry was ABSENT. -/
def presenceGood (k : Line) (node : Addr) (s : State) : State :=
  let s' := s.modLine k (fun l => { l with pollList := updateEntry node PollEntry.reset l.pollList })
  match findEntry node (s.line k).pollList with
  | none => s
  | some e => if e.isAbsent then noteEvent .nodeFound (some k) (some node) s' else s'

/-! ## Reply windows -/

/-- Closes the window record of line `k` and stops its timer (R118). -/
def closeWindow (k : Line) (s : State) : State :=
  s.modLine k (fun l => { l with window := .closed, windowTimer := none })

/-- Opens a reply window on line `k` (R118). -/
def openWindow (k : Line) (o : Origin) (node : Addr) (s : State) : State :=
  s.modLine k (fun l =>
    { l with window := .opened o node, windowTimer := some l.config.replyWindow })

/-- A lead is accepted, or met without a reservation: it ends an OPEN window (R25, R119). -/
def windowLead (l : LineRec) : LineRec :=
  match l.window with
  | .opened o node => { l with window := .replying o node, windowTimer := none }
  | .closed => l
  | .replying _ _ => l

/-- A damaged reply (R123): no presence changes, the window closes, and a window of origin DATA is
taken as an expiry by the await record (R99). With no reply in progress nothing is reported. -/
def damagedReply (k : Line) (s : State) : State :=
  match (s.line k).window with
  | .replying .data _ => awaitExpiry k (closeWindow k s)
  | .replying .poll _ => closeWindow k s
  | .opened _ _ => s
  | .closed => s

/-! ## Flush -/

/-- The RESTART reply, if slot `i` holds it, has been sent or released (R145). -/
def noteReplyGone (i : SlotIx) (s : State) : State :=
  if s.agent.restartReply = some i then s.modAgent (fun a => { a with restartReply := none }) else s

/-- Drops a flushed reference without a RETURN (R86). -/
def flushDrop (s : State) (i : SlotIx) : State := dropRef i (noteReplyGone i s)

/-- Takes a flushed reference of the transmit position or the normal queue: a confirmed DATA frame is
rewritten as a RETURN and listed, any other reference is dropped (R86). -/
def flushRef (acc : State × List SlotIx) (i : SlotIx) : State × List SlotIx :=
  if (acc.1.frame i).confirmedData then (makeReturn .lineDown i acc.1, acc.2 ++ [i])
  else (flushDrop acc.1 i, acc.2)

/-- The transmit position's part of step 3 of a flush (R86). -/
def flushTp (tp : Option TxItem) (s : State) : State × List SlotIx :=
  match tp with
  | none => (s, [])
  | some (.conf _) => (s, [])
  | some (.poll _) => (s, [])
  | some (.urgent i) => (flushDrop s i, [])
  | some (.normal i) => flushRef (s, []) i
  | some (.resend i) => (flushDrop s i, [])

/-- The await record's part of step 3 of a flush (R86). -/
def flushAwait (a : Await) (acc : State × List SlotIx) : State × List SlotIx :=
  match a.slot? with
  | none => acc
  | some i => (makeReturn .lineDown i acc.1, acc.2 ++ [i])

/-- Step 3 of a flush of a line whose record was `l` (R85, R86): the RETURNs made, in order. -/
def flushFrames (l : LineRec) (s : State) : State × List SlotIx :=
  let acc := flushAwait l.await (flushTp l.tp s)
  let acc := l.normalQ.foldl flushRef acc
  (l.urgentQ.foldl flushDrop acc.1, acc.2)

/-- The line record after steps 1, 2, 4 and 5 of a flush, with its places emptied (R85, R126). The
turnaround wait is started where a transmission on a POLLED line was aborted (R36). `polled` says whether
the line's mode is POLLED, or was until the LINE-SET that causes the flush. A character the receiver is
inside at a LINE-RESET is kept: it runs on and is taken at its end, in HUNT. R31 abandons the frame and says
nothing of the character: DESIGN CHOICE (log entry 6). -/
def LineRec.emptied (polled : Bool) (l : LineRec) : LineRec :=
  let aborted := l.tp.isSome
  let l :=
    { l with
      rx := { l.rx with
              phase := if l.state = .active then .hunt else .stopped
              gap := none
              quiet := none }
      tp := none
      normalQ := []
      urgentQ := []
      await := .empty
      confirmTimer := none
      pendingConf := []
      memo := []
      window := .closed
      windowTimer := none
      pauseTimer := none }
  let l := if aborted then l.startTurnaround else l
  if polled then
    { l with pollList := l.pollList.map PollEntry.reset, pollPos := 0, cycle := 0#4, burst := 0 }
  else l

/-- A flush of line `k` for any cause but a warm restart (R85 to R89), the line's state and mode
standing as the cause has made them. Last the pool is served and its state evaluated against the free list that the
whole flush leaves (R42, R85). R48 has the state evaluated once, at the end of the event: that evaluation is made
too, by `settle`, and that both are made is a DESIGN CHOICE (log entry 5). -/
def flushLine (k : Line) (polled : Bool) (s : State) : State :=
  let l := s.line k
  let s := s.modLine k (LineRec.emptied polled)
  let (s, returns) := flushFrames l s
  let s := returns.foldl (fun s i => routeReturn i s) s
  evaluatePool (poolService s)

/-! ## Beginning a transmission -/

/-- Fills the transmit position of line `k` (R81). On a POLLED line DE is asserted, so a character
the receiver is inside is not taken (R35). -/
def beginTx (k : Line) (t : TxItem) (s : State) : State :=
  s.modLine k (fun l =>
    { l with
      tp := some t
      rx := if l.config.mode = .polled then { l.rx with inChar := false } else l.rx })

/-- The CONF frame built from a pending-confirmation entry (R6, R107). -/
def ConfEntry.toFrame (e : ConfEntry) : Frame :=
  { dest := e.dest, src := e.src, kind := .conf, confirm := false, seq := e.seq, len := 0
    payload := [] }

/-- The POLL frame for a node (R7). -/
def pollFrame (relay node : Addr) : Frame :=
  { dest := node, src := relay, kind := .poll, confirm := false, seq := 0#4, len := 0, payload := [] }

/-- Sends the head of the pending-confirmation list as a CONF (R107). -/
def sendConf (k : Line) (e : ConfEntry) (s : State) : State :=
  beginTx k (.conf e.toFrame) (s.modLine k (fun l => { l with pendingConf := l.pendingConf.tail }))

/-- Sends the head of the urgent queue (R80). -/
def sendUrgent (k : Line) (i : SlotIx) (s : State) : State :=
  beginTx k (.urgent i) (s.modLine k (fun l => { l with urgentQ := l.urgentQ.tail }))

/-- Sends the retransmission that is due (R98): a second reference at the transmit position. -/
def sendRetry (k : Line) (i : SlotIx) (s : State) : State :=
  let s := s.modSlot i (fun x => { x with holders := x.holders + 1 })
  beginTx k (.resend i) (s.modLine k (fun l => { l with await := .resending i }))

/-- Sends the head of the normal queue (R78). -/
def sendNormal (k : Line) (i : SlotIx) (s : State) : State :=
  beginTx k (.normal i) (s.modLine k (fun l => { l with normalQ := l.normalQ.tail }))

/-- The first three sources, which DIRECT lines and POLLED lines take in the same order (R82, R113):
none when none of them has anything to send. -/
def firstSources (k : Line) (s : State) : Option State :=
  let l := s.line k
  match l.pendingConf, l.urgentQ, l.await with
  | e :: _, _, _ => some (sendConf k e s)
  | [], i :: _, _ => some (sendUrgent k i s)
  | [], [], .due i => some (sendRetry k i s)
  | [], [], .empty => none
  | [], [], .waiting _ => none
  | [], [], .resending _ => none

/-- The selection of a DIRECT line (R82). -/
def selectDirect (k : Line) (s : State) : State :=
  match firstSources k s with
  | some s' => s'
  | none =>
    match (s.line k).await, (s.line k).normalQ with
    | .empty, i :: _ => sendNormal k i s
    | _, _ => s

/-! ## Transmit completion -/

/-- The transmit completion of a frame that awaits its confirmation (R93, R98): the record is WAITING
and its timer starts, a confirm timer on a DIRECT line, a reply window on a POLLED line. -/
def startAwait (k : Line) (i : SlotIx) (s : State) : State :=
  let s := s.modLine k (fun l => { l with await := .waiting i })
  match (s.line k).config.mode with
  | .polled => openWindow k .data (s.frame i).dest s
  | .direct => s.modLine k (fun l => { l with confirmTimer := some l.config.confirmTimeout })
  | .off => s

/-- Disposes of what the transmit position held (R84). -/
def disposeTx (k : Line) (t : TxItem) (s : State) : State :=
  match t with
  | .conf _ => s
  | .poll f => openWindow k .poll f.dest s
  | .urgent i => releaseRef i (noteReplyGone i s)
  | .normal i => if (s.frame i).confirmedData then startAwait k i s else releaseRef i s
  | .resend i =>
    match (s.line k).await with
    | .resending _ => startAwait k i (releaseRef i s)
    | .empty => releaseRef i s
    | .waiting _ => releaseRef i s
    | .due _ => releaseRef i s

/-- A transmit completion on line `k` (R32, R84): TX_SENT is counted, then the position is disposed
of and is empty. -/
def completeTx (k : Line) (t : TxItem) (s : State) : State :=
  let s := countLine k .txSent s
  let s := s.modLine k (fun l => { l with tp := none })
  disposeTx k t s

end Sys2Proof.Machine
end

