-- ==== Sys2Proof/Machine/Turn.lean ====
section
/-! DEFINITION. The turns of a POLLED line (section 7.3), the placing of replies, and what follows a
command's own effect within its event: selections, turns, the agent's next command, and the
evaluation of the pool state. -/

namespace Sys2Proof.Machine

/-! ## Step 4 of a turn -/

/-- The burst limit allows the head of the normal queue to be served (R114). -/
def LineRec.burstAllows (l : LineRec) : Bool :=
  l.pollList.isEmpty || decide (l.burst < l.config.burstLimit)

/-- Removes the head of line `k`'s normal queue, whose destination is ABSENT (R115). -/
def removeAbsentHead (k : Line) (i : SlotIx) (s : State) : State :=
  let s := s.modLine k (fun l => { l with normalQ := l.normalQ.tail })
  if (s.frame i).confirmedData then returnFrame .absent i s
  else countLine k .qRefused (releaseRef i s)

/-- Whether the destination of slot `i` is an ABSENT node of line `k`'s poll list (R115). -/
def destAbsent (k : Line) (i : SlotIx) (s : State) : Bool :=
  match findEntry (s.frame i).dest (s.line k).pollList with
  | some e => e.isAbsent
  | none => false

/-- Step 4 of a turn, once the burst limit allows it: heads for ABSENT nodes are removed until a head
can be sent or the queue is empty (R113 to R115). The second component says whether a frame is sent.
`fuel` bounds the removals. -/
def serveNormal (k : Line) : Nat → State → State × Bool
  | 0, s => (s, false)
  | fuel + 1, s =>
    match (s.line k).normalQ with
    | [] => (s, false)
    | i :: _ =>
      if destAbsent k i s then serveNormal k fuel (removeAbsentHead k i s)
      else
        let s := s.modLine k (fun l =>
          { l with burst := if l.pollList.isEmpty then l.burst else l.burst + 1 })
        (sendNormal k i s, true)

/-- Removals enough for any queue: each frame is removed once, and each may leave a RETURN in the same
queue, which is removed at most once. -/
def serveFuel (l : LineRec) : Nat := 2 * l.normalQ.length + 1

/-! ## Step 5 of a turn -/

/-- A poll entry is eligible at the given cycle count (R116). -/
def PollEntry.eligible (cycle : BitVec 4) (recheck : Nat) (e : PollEntry) : Bool :=
  !e.isAbsent || decide (cycle.toNat % recheck = 0)

/-- The index of the first eligible entry from the poll position on, if any (R116). -/
def LineRec.nextPoll (l : LineRec) : Option Nat :=
  ((l.pollList.drop l.pollPos).findIdx? (PollEntry.eligible l.cycle l.config.recheckCycles)).map
    (fun n => l.pollPos + n)

/-- The node address of poll entry `n`. -/
def LineRec.nodeAt (l : LineRec) (n : Nat) : Addr :=
  match l.pollList[n]? with
  | some e => e.node
  | none => 0#16

/-- A line at the end of a pass (R116, R117). -/
def LineRec.passEnded (l : LineRec) : LineRec :=
  { l with
    cycle := l.cycle + 1#4
    pollPos := 0
    burst := 0
    pauseTimer := if 0 < l.config.pollPause then some l.config.pollPause else l.pauseTimer }

/-- Selects a poll of entry `n` (R116). -/
def sendPoll (k : Line) (n : Nat) (s : State) : State :=
  let f := pollFrame s.route.relayAddr ((s.line k).nodeAt n)
  beginTx k (.poll f) (s.modLine k (fun l => { l with pollPos := n + 1, burst := 0 }))

/-- Step 5 of a turn (R116, R117): the next eligible entry is polled, or passes end until one is found
or the poll pause starts. A search meets a recheck pass within 16 passes. -/
def pollSearch (k : Line) : Nat → State → State
  | 0, s => s
  | fuel + 1, s =>
    let l := s.line k
    if l.pollList.isEmpty || l.pauseTimer.isSome then s
    else
      match l.nextPoll with
      | some n => sendPoll k n s
      | none => pollSearch k fuel (s.modLine k LineRec.passEnded)

/-- The passes a search can end before an entry is eligible, and one more search. -/
abbrev searchFuel : Nat := 18

/-- A turn of a POLLED line (R113). -/
def takeTurn (k : Line) (s : State) : State :=
  match firstSources k s with
  | some s' => s'
  | none =>
    if (s.line k).await = .empty ∧ (s.line k).burstAllows then
      let (s, sent) := serveNormal k (serveFuel (s.line k)) s
      if sent then s else pollSearch k searchFuel s
    else pollSearch k searchFuel s

/-! ## The agent's reply and next command -/

/-- The agent's state when its reply has left it (R136): IDLE, or RESTART-PENDING kept. -/
def AgentState.afterReply (a : AgentState) : AgentState :=
  if a = .restartPending then .restartPending else .idle

/-- The agent's state while its reply waits for room (R136). -/
def AgentState.holding (a : AgentState) : AgentState :=
  if a = .restartPending then .restartPending else .replyWait

/-- The current command leaves the agent. -/
def Agent.letGo (a : Agent) : Agent := { a with current := none, state := a.state.afterReply }

/-- Releases the reply in slot `i` unsent (R136, R137, R145). -/
def releaseReply (i : SlotIx) (s : State) : State :=
  releaseRef i (noteReplyGone i (s.modAgent Agent.letGo))

/-- Offers the built reply, which is the current command, to the urgent queue of its arrival line
(R136): placed, held, or released when the line is not ACTIVE. -/
def offerReply (s : State) : State :=
  match s.agent.current with
  | none => s
  | some i =>
    match (s.slot i).arrival with
    | none => releaseReply i s
    | some j =>
      if (s.line j).state = .active then
        if (s.line j).urgentQ.length < Config.urgentCap then
          (s.modLine j (fun l => { l with urgentQ := l.urgentQ ++ [i] })).modAgent Agent.letGo
        else s.modAgent (fun a => { a with state := a.state.holding })
      else releaseReply i s

/-- Gives the agent the room in its reply's arrival line's urgent queue, when it waits to place the reply
(R80, R137). Room that a NOTICE has filled by then is no room, and the agent goes on waiting. That the room
is given in an event of its own, REPLY_WAIT_ROOM, so that the queue of commands decides whether a NOTICE or
the reply is taken first, is a DESIGN CHOICE (log entry 14). -/
def giveRoom (s : State) : State := if s.agent.waitsForRoom then offerReply s else s

/-- Releases the reply the agent holds for line `k`, which enters FAULT (R137, R145). -/
def dropHeldReply (k : Line) (s : State) : State :=
  match s.agent.current with
  | none => s
  | some i =>
    if s.agent.waitsForRoom && decide ((s.slot i).arrival = some k) then releaseReply i s else s

/-- An IDLE agent takes the head of its queue as its current command (R132). -/
def takeCommand (s : State) : State :=
  if s.agent.state = .idle then
    match s.agent.queue with
    | [] => s
    | i :: rest =>
      s.modAgent (fun a => { a with queue := rest, current := some i, state := .executing })
  else s

/-! ## The end of an event -/

/-- Lets line `k` choose its next transmission if it may (R83, R113). The room that a reference leaving
the urgent queue makes reaches a waiting agent in the event REPLY_WAIT_ROOM (`giveRoom`, log entry 14). -/
def attend (s : State) (k : Line) : State :=
  if (s.line k).selects then selectDirect k s
  else if (s.line k).takesTurn then takeTurn k s
  else s

/-- Attends to the eight lines in ascending order. -/
def attendAll (s : State) : State := allLines.foldl attend s

/-- The first three sources of a line have nothing to send (R82, R113). -/
def LineRec.firstEmpty (l : LineRec) : Bool :=
  l.pendingConf.isEmpty && l.urgentQ.isEmpty &&
    (match l.await with
     | .due _ => false
     | .empty => true
     | .waiting _ => true
     | .resending _ => true)

/-- A line whose engine has nothing to do in this event: it may not transmit, or none of its sources has
anything to send (R82, R83, R113). -/
def LineRec.quiet (l : LineRec) : Bool :=
  if l.selects then l.firstEmpty && (l.await.occupied || l.normalQ.isEmpty)
  else if l.takesTurn then
    l.firstEmpty && (l.await.occupied || !l.burstAllows || l.normalQ.isEmpty) &&
      (l.pollList.isEmpty || l.pauseTimer.isSome)
  else true

/-- Every line is quiet. -/
def State.allQuiet (s : State) : Bool := allLines.all (fun k => (s.line k).quiet)

/-- What line `k` can still do in an event, as a number that no line's choice raises in sum: a transmission to
begin, a poll pause to start, and the frames of its normal queue, a confirmed one counted twice for the RETURN
that may be made of it. -/
def State.lineWork (s : State) (k : Line) : Nat :=
  (if (s.line k).tp.isNone then 1 else 0) + (if (s.line k).pauseTimer.isNone then 1 else 0) +
    ((s.line k).normalQ.map (fun i => if (s.frame i).confirmedData then 2 else 1)).sum

/-- A bound on the rounds of `attendRounds` that change something. -/
def State.work (s : State) : Nat := (allLines.map s.lineWork).sum

/-- Attends to the lines, round by round, until every line is quiet: one line's turn may hand frames to
another. The number bounds the rounds. -/
def attendRounds : Nat → State → State
  | 0, s => s
  | n + 1, s => if s.allQuiet then s else attendRounds n (attendAll s)

/-- What follows a command's own effect within its event (log entry 5): the agent's next command is
taken (R132); every line that may transmit selects or takes a turn (R83, R113), round by round until each is
quiet; the pool state is evaluated against the length the event leaves (R48); and a NOTICE of POOL-LOW may be
selected. Selections and turns so come after the NOTICEs that the command's own effect has built, which no rule
orders: DESIGN CHOICE (log entry 5). A line whose turn has only ended a pass and started the poll pause takes a turn again in the same event,
so that normal frames the burst limit held back go at once: R113 takes a turn "whenever" the line may, and its
list of events names no end of a pass: DESIGN CHOICE (log entry 5). -/
def settle (s : State) : State :=
  let s := takeCommand s
  let s := attendRounds s.work s
  let s := evaluatePool s
  attendRounds s.work s

/-- What a command answers when its event's effect is `f`: see `when`, with the consequences of
`settle` within the same event. -/
def event (s : State) (possible : Bool) (f : State → State) : Host.Outcome State Fault Refusal :=
  when s possible (fun s => settle (f s))

end Sys2Proof.Machine
end

