-- ==== Sys2Proof/Machine/Receive.lean ====
section
/-! DEFINITION. The receiver of a line port (section 2.4), the decision of a frame at its receive
completion (R28, R125), and the meanings of START_BIT, CHARACTER_RECEIVED, RECEIVE_COMPLETION,
GAP_TIMER_EXPIRY and QUIET_TIMER_EXPIRY. -/

namespace Sys2Proof.Machine

/-! ## The receiver as a function of its own state and the frame it stores -/

/-- What storing a good byte in HEAD, BODY or TRAIL leads to. -/
inductive ByteResult where
  /-- the frame goes on -/
  | more
  /-- the length byte is greater than 56 (R26) -/
  | lengthError
  /-- the second check byte has arrived; the flag says whether the check is good (R28) -/
  | complete (good : Bool)
  deriving DecidableEq, Repr

/-- A good byte in HEAD, BODY or TRAIL (R26, R11): the receiver state, the check register and the
stored frame after it, and what it leads to. The gap timer is the caller's. A length byte out of range
abandons the frame and is not stored. -/
def Receiver.takeByte (rx : Receiver) (f : Frame) (b : Byte) : Receiver × Frame × ByteResult :=
  let crc := crcByte rx.crc b
  match rx.phase with
  | .head n =>
    if n < 5 then ({ rx with phase := .head (n + 1), crc := crc }, storeHeader n b f, .more)
    else if Config.maxPayload < b.toNat then (rx, f, .lengthError)
    else
      ({ rx with phase := if b.toNat = 0 then .trail 0 else .body 0, crc := crc },
        storeHeader n b f, .more)
  | .body n =>
    ({ rx with phase := if n + 1 < f.len then .body (n + 1) else .trail 0, crc := crc },
      { f with payload := f.payload ++ [b] }, .more)
  | .trail n =>
    if n = 0 then ({ rx with phase := .trail 1, crc := crc }, f, .more)
    else ({ rx with crc := crc }, f, .complete (decide (crc = 0#16)))
  | .stopped => (rx, f, .more)
  | .hunt => (rx, f, .more)
  | .skip => (rx, f, .more)

/-- The receiver is inside a frame: HEAD, BODY or TRAIL. -/
def RxPhase.inFrame : RxPhase → Bool
  | .head _ | .body _ | .trail _ => true
  | .stopped | .hunt | .skip => false

/-! ## Errors -/

/-- The receiver returns to HUNT with the gap timer stopped (R28, R29). -/
def toHunt (k : Line) (s : State) : State :=
  s.modLine k (fun l => { l with rx := { l.rx with phase := .hunt, gap := none, quiet := none } })

/-- A frame is abandoned for a receive error (R29): HUNT, the reservation kept, one counter, and the
report to the line engine, which takes it as a damaged reply inside a window (R123). -/
def abandonFrame (k : Line) (c : LineCounter) (s : State) : State :=
  damagedReply k (countLine k c (toHunt k s))

/-- The end of SKIP (R30): RX_NOSLOT is counted, the receiver returns to HUNT, and inside a window the
lost frame is a damaged reply. -/
def endSkip (k : Line) (s : State) : State := abandonFrame k .rxNoslot s

/-- A break character (R22): RX_BREAK is counted once, the fault timer starts, the break condition is
entered, and a frame in HEAD, BODY or TRAIL is abandoned. -/
def breakCharacter (k : Line) (s : State) : State :=
  let inFrame := (s.line k).rx.phase.inFrame
  let s := s.modLine k (fun l =>
    { l with rx := { l.rx with brk := true }, faultTimer := some Config.faultMs })
  if inFrame then abandonFrame k .rxBreak s else countLine k .rxBreak s

/-! ## The lead -/

/-- A lead in HUNT (R25): a frame begins in the reservation, or the receiver enters SKIP. It ends an
open reply window (R119). -/
def takeLead (k : Line) (s : State) : State :=
  s.modLine k (fun l =>
    let l := windowLead l
    match l.reservation with
    | some _ =>
      { l with rx := { l.rx with phase := .head 0, crc := 0xFFFF#16, gap := some l.config.gapLimit } }
    | none => { l with rx := { l.rx with phase := .skip, quiet := some l.config.gapLimit } })

/-! ## The decision at receive completion -/

/-- Where the first look leaves a frame. -/
inductive Look where
  /-- consumed or discarded; the slot stays with the line (R28) -/
  | consumed
  /-- passed to the route unit -/
  | passed
  deriving DecidableEq, Repr

/-- The line engine's first look at a valid frame that is not late (R6, R7, R94, R104). `inWindow` says
whether the frame is the reply of a reply window. -/
def firstLook (k : Line) (inWindow : Bool) (f : Frame) (s : State) : State × Look :=
  match f.kind with
  | .conf => (offerConf k f s, .consumed)
  | .poll => (countLine k .rxLate s, .consumed)
  | .nil => (if inWindow then s else countLine k .rxLate s, .consumed)
  | .data =>
    if f.wantsConf && isDuplicate (s.line k).memo f then
      (oweConf k f.confOwed (countLine k .rxDup s), .consumed)
    else (s, .passed)
  | .mgmt => (s, .passed)
  | .mreply => (s, .passed)
  | .notice => (s, .passed)
  | .ret => (s, .passed)

/-- The frame in slot `i` passes to the route unit with the line's reservation; on the report for an
admitted confirmed frame the memo is updated and a CONF owed; and the line requests a new reservation
(R28, R59, R103, R105). That a release within the decision is served before the request (R45 lets either be
first), and that the CONF is owed before the request, so that a NOTICE of CONF_SHED's COUNTER-FULL may take a slot
first (R28, R45, R59, R103 and R105 give no order), are DESIGN CHOICES (log entry 5). -/
def passToRoute (k : Line) (i : SlotIx) (s : State) : State :=
  let f := s.frame i
  let s := s.modLine k (fun l => { l with reservation := none })
  let (s, admitted) := routeReceived k i s
  let s := if admitted && f.wantsConf then acceptConfirmed k f s else s
  requestReservation k s

/-- The first look and, unless it consumes the frame, the route unit. -/
def lookAndRoute (k : Line) (i : SlotIx) (s : State) : State :=
  let (s', look) := firstLook k false (s.frame i) s
  match look with
  | .consumed => s'
  | .passed => passToRoute k i s'

/-- The steps of R125 from the third on, for a valid reply in slot `i` whose window had the given
origin and node. -/
def processReply (k : Line) (i : SlotIx) (o : Origin) (node : Addr) (s : State) : State :=
  let f := s.frame i
  let s := closeWindow k s
  let s :=
    if f.src = node then presenceGood k node s
    else
      match o with
      | .poll => presenceMiss k node s
      | .data => s
  let (s, look) := firstLook k true f s
  let s :=
    match o with
    | .data => awaitExpiry k s
    | .poll => s
  match look with
  | .consumed => s
  | .passed => passToRoute k i s

/-- The decision of a frame with a good check in slot `i` on line `k` (R12, R28, R120, R125). -/
def decideFrame (k : Line) (i : SlotIx) (s : State) : State :=
  if (s.frame i).invalid s.route.relayAddr then damagedReply k (countRelay .invalid s)
  else
    match (s.line k).config.mode with
    | .polled =>
      match (s.line k).window with
      | .replying o node => processReply k i o node s
      | .closed => countLine k .rxLate s
      | .opened _ _ => countLine k .rxLate s
    | .direct => lookAndRoute k i s
    | .off => lookAndRoute k i s

/-- Receive completion (R28): the check, RX_GOOD, HUNT, and the decision. -/
def receiveComplete (k : Line) (i : SlotIx) (good : Bool) (s : State) : State :=
  if good then decideFrame k i (countLine k .rxGood (toHunt k s))
  else abandonFrame k .rxCheck s

/-! ## Characters -/

/-- A good character inside a frame, stored in the reservation's slot (R26, R27, R39). -/
def storeByte (k : Line) (b : Byte) (s : State) : State :=
  match (s.line k).reservation with
  | none => s
  | some i =>
    let (rx, f, r) := (s.line k).rx.takeByte (s.frame i) b
    let s := s.modFrame i (fun _ => f)
    let s := s.modLine k (fun l => { l with rx := { rx with gap := some l.config.gapLimit } })
    match r with
    | .more => s
    | .lengthError => abandonFrame k .rxLength s
    | .complete good => receiveComplete k i good s

/-- The receiver takes the character `c` (R17, R25, R26, R30). Its start bit has stopped the gap and
quiet timers; in SKIP the quiet timer starts again at its end. On a POLLED line its end starts the
turnaround wait (R35). -/
def takeChar (k : Line) (c : RxChar) (s : State) : State :=
  let s := s.modLine k (fun l =>
    { l.startTurnaround with
      rxd := c.stop
      rx := { l.rx with
              inChar := false
              gap := none
              quiet := if l.rx.phase = .skip then some l.config.gapLimit else none } })
  match classify (s.line k).config.parity c with
  | .brk => breakCharacter k s
  | .framing => if (s.line k).rx.phase.inFrame then abandonFrame k .rxChar s else s
  | .parity => if (s.line k).rx.phase.inFrame then abandonFrame k .rxChar s else s
  | .good =>
    if (s.line k).rx.phase.inFrame then storeByte k c.data s
    else if (s.line k).rx.phase = .hunt ∧ c.data = Config.lead then takeLead k s
    else s

/-- A true start bit (R17, R27): the receiver is inside a character and the gap or quiet timer stops. -/
def startChar (k : Line) (s : State) : State :=
  s.modLine k (fun l =>
    { l with rxd := .space, rx := { l.rx with inChar := true, gap := none, quiet := none } })

/-! ## Meanings -/

/-- START_BIT (R17, R27, R30, R35): a start bit whose middle is at mark is false and is ignored. -/
def execStartBit (k : Line) (mid : Level) (s : State) : Host.Outcome State Fault Refusal :=
  event s ((s.line k).listening && !(s.line k).rx.inChar && decide (mid = .space)) (startChar k)

/-- CHARACTER_RECEIVED (R17, R22, R25, R26, R29, R30). A character given without its START_BIT before
it includes its start (log entry 6). -/
def execCharacterReceived (k : Line) (c : RxChar) (s : State) : Host.Outcome State Fault Refusal :=
  event s (s.line k).listening (takeChar k c)

/-- RECEIVE_COMPLETION (R28, R125): the good second check character of value `b` ends. -/
def execReceiveCompletion (k : Line) (b : Byte) (s : State) : Host.Outcome State Fault Refusal :=
  event s ((s.line k).listening && decide ((s.line k).rx.phase = .trail 1))
    (takeChar k { data := b, parity := (parityBit (s.line k).config.parity b).getD false, stop := .mark })

/-- GAP_TIMER_EXPIRY (R27, R29). -/
def execGapTimerExpiry (k : Line) (s : State) : Host.Outcome State Fault Refusal :=
  event s (decide ((s.line k).state = .active) && (s.line k).rx.phase.inFrame &&
    (s.line k).rx.gap.isSome) (abandonFrame k .rxGap)

/-- The quiet timer's expiry (R30): the frame being skipped is over, unless a break condition keeps the
receiver in SKIP until RXD returns to mark. -/
def quietExpiry (k : Line) (s : State) : State :=
  if (s.line k).rx.brk then s.modLine k (fun l => { l with rx := { l.rx with quiet := none } })
  else endSkip k s

/-- QUIET_TIMER_EXPIRY (R30). -/
def execQuietTimerExpiry (k : Line) (s : State) : Host.Outcome State Fault Refusal :=
  event s (decide ((s.line k).state = .active) && decide ((s.line k).rx.phase = .skip) &&
    (s.line k).rx.quiet.isSome) (quietExpiry k)

end Sys2Proof.Machine
end

