-- ==== Sys2Proof/Machine/Restart.lean ====
section
/-! DEFINITION. Power-on reset and the warm restart (chapter 11), and the meanings of RSTN_ASSERT,
RSTN_RELEASE and WARM_RESTART. -/

namespace Sys2Proof.Machine

/-! ## The warm restart -/

/-- A line at steps 1, 4, 5 and 6 of a warm restart (R176, R38, R90): a line whose mode is not OFF is
emptied without RETURNs, its timers cancelled and its break condition cleared, and it becomes ACTIVE
with a fresh receiver; every line's counters are 0. A character the receiver is inside is dropped with the
reception, so that the next START_BIT begins a new one; R176 says nothing of the character: DESIGN CHOICE (log
entry 6). -/
def LineRec.restarted (l : LineRec) : LineRec :=
  let l := { l with counters := Vector.replicate 16 0#16 }
  if l.config.mode = .off then l
  else
    let l := LineRec.emptied (decide (l.config.mode = .polled)) l
    { l with
      state := .active
      rx := Receiver.fresh
      turnaround := none
      faultTimer := none
      recovery := none
      reservation := none }

/-- A slot at step 4 of a warm restart (R39, R55). -/
def Slot.restarted (x : Slot) : Slot := { x with holders := 0, retry := 0 }

/-- The pool at step 4 of a warm restart (R55): the reserve and the water marks are kept. -/
def Pool.restarted (p : Pool) : Pool :=
  { p with free := allSlots, state := .normal, waiters := 0#8, lastGranted := 7, noticeWaiting := false }

/-- The route unit at steps 2 and 5 of a warm restart (R57, R74, R176). -/
def RouteUnit.restarted (r : RouteUnit) : RouteUnit :=
  { r with shadow := r.active, counters := Vector.replicate 7 0#16 }

/-- The management agent at step 2 of a warm restart (R145): the lease setting is kept. -/
def Agent.restarted (a : Agent) : Agent :=
  { Agent.powerOn with leaseSetting := a.leaseSetting }

/-- The notice unit at step 3 of a warm restart (R171): mask, address and interval are kept. -/
def NoticeUnit.restarted (n : NoticeUnit) : NoticeUnit :=
  { NoticeUnit.powerOn with mask := n.mask, address := n.address, interval := n.interval }

/-- Steps 1 to 5 of a warm restart, with the line states of step 6 (R176). -/
def clearForRestart (s : State) : State :=
  { s with
    lines := s.lines.map LineRec.restarted
    slots := s.slots.map Slot.restarted
    pool := s.pool.restarted
    route := s.route.restarted
    agent := s.agent.restarted
    notice := s.notice.restarted }

/-- A line requests a reservation at a warm restart when it is not OFF (R45, R55). -/
def requestIfUp (s : State) (k : Line) : State :=
  if (s.line k).state = .off then s else requestReservation k s

/-- The warm restart (R176): the parts cleared, the reservations requested in ascending line number,
RESTARTED raised. No rule orders the turn that a POLLED line takes on becoming ACTIVE at step 6 (R113) against
step 7, where the NOTICE of RESTARTED may join that line's urgent queue; the turn is taken at the event's end
(`settle`), so the NOTICE is sent before a POLL: DESIGN CHOICE (log entry 5). -/
def warmRestart (s : State) : State :=
  noteEvent .restarted none none (allLines.foldl requestIfUp (clearForRestart s))

/-- Takes the warm restart when the RESTART reply has been sent or released (R145). -/
def restartIfDue (s : State) : State := if s.agent.restartDue then warmRestart s else s

/-! ## Meanings -/

/-- RSTN_ASSERT (R173): every transmission, reception, frame, timer and setting is lost. -/
def execRstnAssert (s : State) : Host.Outcome State Fault Refusal :=
  .next { State.heldInReset s.straps with pending := s.pending }

/-- RSTN_RELEASE (R173, R174): the straps are read and every block takes its power-on state. -/
def execRstnRelease (addr : BitVec 4) (msel : BitVec 3) (s : State) :
    Host.Outcome State Fault Refusal :=
  .next { State.powerOn { addr := addr, msel := msel } with pending := s.pending }

/-- WARM_RESTART (R176), taken once the RESTART reply has been sent or released (R145). -/
def execWarmRestart (s : State) : Host.Outcome State Fault Refusal :=
  event s s.agent.restartDue warmRestart

end Sys2Proof.Machine
end

