-- ==== Sys2Proof/Machine/Port.lean ====
section
/-! DEFINITION. The meanings of the remaining events of lines and timers: transmissions (R82 to R84,
R113), the await timer and the reply window (R97, R124), the turnaround wait and the poll pause, and
breaks, FAULT and recovery (R22, R23). -/

namespace Sys2Proof.Machine

/-! ## Transmission -/

/-- TRANSMIT_SELECTION (R82). -/
def execTransmitSelection (k : Line) (s : State) : Host.Outcome State Fault Refusal :=
  event s (s.line k).selects (selectDirect k)

/-- POLLED_TURN (R113). -/
def execPolledTurn (k : Line) (s : State) : Host.Outcome State Fault Refusal :=
  event s (s.line k).takesTurn (takeTurn k)

/-- The transmit completion of line `k`, with the warm restart it may bring (R84, R145). -/
def transmitDone (k : Line) (s : State) : State :=
  match (s.line k).tp with
  | none => s
  | some t => restartIfDue (completeTx k t s)

/-- TRANSMIT_COMPLETION (R32, R84, R93, R118, R145). -/
def execTransmitCompletion (k : Line) (s : State) : Host.Outcome State Fault Refusal :=
  event s (decide ((s.line k).state = .active) && (s.line k).tp.isSome) (transmitDone k)

/-! ## Await timer, reply window, turnaround, poll pause -/

/-- CONFIRM_TIMER_EXPIRY (R97). -/
def execConfirmTimerExpiry (k : Line) (s : State) : Host.Outcome State Fault Refusal :=
  event s (s.line k).confirmTimer.isSome
    (fun s => awaitExpiry k (s.modLine k (fun l => { l with confirmTimer := none })))

/-- An open window expires with no lead (R124): POLL_MISS, the turnaround wait, a presence miss, and,
for a window of origin DATA, the await's expiry unless the miss has made the node ABSENT (R100). -/
def windowExpiry (k : Line) (s : State) : State :=
  match (s.line k).window with
  | .opened o node =>
    let s := closeWindow k s
    let s := s.modLine k LineRec.startTurnaround
    let s := presenceMiss k node (countLine k .pollMiss s)
    match o with
    | .data => awaitExpiry k s
    | .poll => s
  | .closed => s
  | .replying _ _ => s

/-- REPLY_WINDOW_EXPIRY (R119, R124). -/
def execReplyWindowExpiry (k : Line) (s : State) : Host.Outcome State Fault Refusal :=
  event s (s.line k).windowTimer.isSome (windowExpiry k)

/-- TURNAROUND_END (R35). -/
def execTurnaroundEnd (k : Line) (s : State) : Host.Outcome State Fault Refusal :=
  event s (s.line k).turnaround.isSome
    (fun s => s.modLine k (fun l => { l with turnaround := none }))

/-- POLL_PAUSE_EXPIRY (R117). -/
def execPollPauseExpiry (k : Line) (s : State) : Host.Outcome State Fault Refusal :=
  event s (s.line k).pauseTimer.isSome
    (fun s => s.modLine k (fun l => { l with pauseTimer := none }))

/-! ## Breaks, FAULT and recovery -/

/-- Entry to FAULT (R22, R89): the line goes down, is flushed with its reservation kept, and LINE-CHANGE
is given; the recovery timer runs if RXD is already at mark (R23). A reply the agent holds for this
line is released (R137), and a warm restart that waited for a reply now lost is taken (R145). R22, R89 and R137
give no order among the flush, whose releases may grant slots to waiting lines, the LINE-CHANGE event, whose
NOTICE may take a slot, and the release of the held reply; that they come in this order is a DESIGN CHOICE (log
entry 5). -/
def enterFault (k : Line) (s : State) : State :=
  let s := s.modLine k (fun l =>
    { l with
      state := .fault
      faultTimer := none
      recovery := if l.rxd = .mark then some Config.recoveryMs else none
      rx := { l.rx with brk := false, inChar := false } })
  let s := flushLine k (decide ((s.line k).config.mode = .polled)) s
  let s := noteEvent .lineChange (some k) none s
  restartIfDue (dropHeldReply k s)

/-- FAULT_TIMER_EXPIRY (R22). -/
def execFaultTimerExpiry (k : Line) (s : State) : Host.Outcome State Fault Refusal :=
  event s (decide ((s.line k).state = .active) && (s.line k).faultTimer.isSome) (enterFault k)

/-- RXD of line `k` returns to mark (R17, R22, R23, R30): the break condition and the fault timer end,
a line in FAULT starts its recovery timer, and a receiver that only waited in SKIP for the mark returns
to HUNT. -/
def returnToMark (k : Line) (s : State) : State :=
  let l := s.line k
  let waitedInSkip := l.rx.brk && decide (l.rx.phase = .skip) && l.rx.quiet.isNone
  let s := s.modLine k (fun l =>
    { l with
      rxd := .mark
      rx := { l.rx with brk := false }
      faultTimer := none
      recovery :=
        if l.state = .fault ∧ l.rxd = .space then some Config.recoveryMs else l.recovery })
  if waitedInSkip then endSkip k s else s

/-- RXD_RETURN_TO_MARK (R22, R23). -/
def execRxdReturnToMark (k : Line) (s : State) : Host.Outcome State Fault Refusal :=
  event s (decide ((s.line k).state ≠ .off)) (returnToMark k)

/-- RXD_SPACE_IN_FAULT (R23). -/
def execRxdSpaceInFault (k : Line) (s : State) : Host.Outcome State Fault Refusal :=
  event s (decide ((s.line k).state = .fault))
    (fun s => s.modLine k (fun l => { l with rxd := .space, recovery := none }))

/-- Return from FAULT to ACTIVE (R23). The line's selection or turn (R83, R113) is taken at the event's end, after
the NOTICE that LINE-CHANGE may build has joined an urgent queue, which no rule orders: DESIGN CHOICE (log entry 5).
-/
def recover (k : Line) (s : State) : State :=
  noteEvent .lineChange (some k) none
    (s.modLine k (fun l => { l with state := .active, recovery := none, rx := Receiver.fresh }))

/-- RECOVERY_TIMER_EXPIRY (R23). -/
def execRecoveryTimerExpiry (k : Line) (s : State) : Host.Outcome State Fault Refusal :=
  event s (decide ((s.line k).state = .fault) && (s.line k).recovery.isSome) (recover k)

/-! ## Pool and notice events -/

/-- RESERVATION_GRANT (R45). -/
def execReservationGrant (s : State) : Host.Outcome State Fault Refusal :=
  event s s.pool.canGrant grantOne

/-- NOTICE_SLOT_SERVED (R47, R166). -/
def execNoticeSlotServed (s : State) : Host.Outcome State Fault Refusal :=
  event s (s.pool.noticeWaiting && !s.pool.free.isEmpty) serveNotice

/-- The interval timer's expiry (R170): IDLE, and the emission test. -/
def intervalExpiry (s : State) : State :=
  emissionTest (s.modNotice (fun n => { n with state := .idle, timer := none }))

/-- NOTICE_INTERVAL_EXPIRY (R170). -/
def execNoticeIntervalExpiry (s : State) : Host.Outcome State Fault Refusal :=
  event s s.notice.timer.isSome intervalExpiry

/-! ## Agent events -/

/-- AGENT_TAKE (R132). -/
def execAgentTake (s : State) : Host.Outcome State Fault Refusal :=
  event s (decide (s.agent.state = .idle) && !s.agent.queue.isEmpty) takeCommand

/-- REPLY_WAIT_ROOM (R137, R145): the agent places the reply it holds, or holds it on when the urgent
queue has no room, or releases it when its line is not ACTIVE. -/
def execReplyWaitRoom (s : State) : Host.Outcome State Fault Refusal :=
  event s s.agent.waitsForRoom (fun s => restartIfDue (giveRoom s))

/-- The claim ends (R141, R142): FREE, the lease stopped, the cache empty, the shadow reloaded. -/
def endClaim (s : State) : State :=
  (s.modAgent (fun a => { a with claim := none, lease := none, cache := none })).modRoute
    (fun r => { r with shadow := r.active })

/-- A lapse of the claim at the end of its lease (R142): CLAIM-LAPSED names the former holder. -/
def lapse (s : State) : State :=
  match s.agent.claim with
  | some c => noteEvent .claimLapsed (some c.line) (some c.holder) (endClaim s)
  | none => endClaim s

/-- LEASE_EXPIRY (R142). -/
def execLeaseExpiry (s : State) : Host.Outcome State Fault Refusal :=
  event s s.agent.lease.isSome lapse

end Sys2Proof.Machine
end

