-- ==== Sys2Proof/Machine/Agent.lean ====
section
/-! DEFINITION. What all management commands share (chapter 8): the current command, the order of the
tests, the reply, the lease and the reply cache; and the meaning of UNKNOWN_COMMAND. -/

namespace Sys2Proof.Machine

/-- The current command as the agent reads it from its slot (R8, R135). -/
structure Cmd where
  slot : SlotIx
  src : Addr
  arrival : Option Line
  code : Byte
  tag : Byte
  /-- the bytes after code and tag -/
  ops : List Byte
  /-- the payload length -/
  len : Nat
  deriving DecidableEq, Repr

/-- A status, its detail and its results (R134). -/
structure Reply where
  status : Status
  detail : Byte
  results : List Byte
  deriving DecidableEq, Repr

/-- The status, detail and results as they stand in a reply payload (R135). -/
def Reply.bytes (r : Reply) : List Byte := r.status.code :: r.detail :: r.results

/-- A reply with status OK and the given results. -/
def Reply.ok (results : List Byte) : Reply := { status := .ok, detail := 0#8, results := results }

/-- A refusal without results (R134). -/
def Reply.refusal (st : Status) (detail : Byte) : Reply :=
  { status := st, detail := detail, results := [] }

/-- A refusal with OPERAND, naming the operand by its number (R134). -/
def Reply.operand (n : Nat) : Reply := Reply.refusal .operand (numByte n)

/-- CLAIMED, with the holder's address and line as results (R134, R139). -/
def Reply.claimed (c : Claim) : Reply :=
  { status := .claimed, detail := 0#8, results := wordBytes c.holder ++ [numByte c.line.val] }

/-- The current command while the agent is EXECUTING (R131). -/
def State.command (s : State) : Option Cmd :=
  match s.agent.state, s.agent.current with
  | .executing, some i =>
    let x := s.slot i
    some
      { slot := i
        src := x.frame.src
        arrival := x.arrival
        code := byteAt x.frame.payload 0
        tag := byteAt x.frame.payload 1
        ops := x.frame.payload.drop 2
        len := x.frame.len }
  | _, _ => none

/-- The payload length each command code requires (Table 12-4); none for a code that names no
command. -/
def commandLength (code : Byte) : Option Nat :=
  match code.toNat with
  | 0x01 => some 2 | 0x02 => some 2 | 0x03 => some 2 | 0x04 => some 4 | 0x05 => some 14
  | 0x06 => some 3 | 0x07 => some 2 | 0x08 => some 4 | 0x09 => some 3 | 0x0A => some 22
  | 0x0B => some 3 | 0x0C => some 4 | 0x0D => some 6 | 0x0E => some 4 | 0x0F => some 4
  | 0x10 => some 2 | 0x11 => some 2 | 0x12 => some 11 | 0x13 => some 2 | 0x14 => some 8
  | 0x15 => some 3 | 0x16 => some 2 | _ => none

/-- The command is from the holder (R139). -/
def Cmd.fromHolder (c : Cmd) (a : Agent) : Bool :=
  match a.claim with
  | some h => decide (c.src = h.holder) && decide (c.arrival = some h.line)
  | none => false

/-- The replay test (R133, R144): the cached reply when it is met. -/
def Cmd.replay (c : Cmd) (a : Agent) : Option (List Byte) :=
  match a.cache with
  | some e =>
    if c.fromHolder a ∧ c.tag ≠ 0#8 ∧ c.code = e.code ∧ c.tag = e.tag then some e.reply else none
  | none => none

/-- The command needs the edit claim (Table 8-3); COUNT-READ needs it when its clear operand is set. -/
def Cmd.needsClaim (c : Cmd) : Bool :=
  match c.code.toNat with
  | 0x03 | 0x05 | 0x06 | 0x07 | 0x08 | 0x0A | 0x0B | 0x0D | 0x0E | 0x12 | 0x14 | 0x16 => true
  | 0x0F => decide (byteAt c.ops 1 ≠ 0#8)
  | _ => false

/-- A command's own part: its tests of step 5 and its effect of step 6 (R133). -/
abbrev Body := Cmd → State → State × Reply

/-- Tests 2 to 6 of R133 for a command that is not replayed. -/
def Cmd.decide (c : Cmd) (body : Body) (s : State) : State × Reply :=
  match commandLength c.code with
  | none => (s, Reply.refusal .unknown 0#8)
  | some n =>
    if c.len ≠ n then (s, Reply.refusal .length 0#8)
    else if c.needsClaim && !c.fromHolder s.agent then
      match s.agent.claim with
      | none => (s, Reply.refusal .noClaim 0#8)
      | some h => (s, Reply.claimed h)
    else body c s

/-- The lease timer starts with the lease setting in force (R142). -/
def startLease (s : State) : State :=
  s.modAgent (fun a => { a with lease := some a.leaseSetting })

/-- After a command from the holder answered OK, the lease starts again and the cache takes the reply
(R142, R143). The test is made after the effect: a CLAIM that was granted is then from the holder, and
a RELEASE is not. -/
def recordReply (c : Cmd) (r : Reply) (s : State) : State :=
  if r.status = .ok ∧ c.fromHolder s.agent then
    (startLease s).modAgent (fun a =>
      { a with cache := some { code := c.code, tag := c.tag, reply := r.bytes } })
  else s

/-- The MREPLY frame built from a command's frame (R135). -/
def Frame.toReply (f : Frame) (relay : Addr) (payload : List Byte) : Frame :=
  { dest := f.src, src := relay, kind := .mreply, confirm := false, seq := f.seq
    len := payload.length, payload := payload }

/-- Builds the reply in the command's slot with the relay address in force (R135). -/
def buildReply (c : Cmd) (bytes : List Byte) (s : State) : State :=
  s.modFrame c.slot (fun f => f.toReply s.route.relayAddr (c.code :: c.tag :: bytes))

/-- An execution completion of command `c` with the given own part (R133 to R136, R142 to R145). -/
def complete (body : Body) (c : Cmd) (s : State) : State :=
  match c.replay s.agent with
  | some bytes => restartIfDue (offerReply (buildReply c bytes (startLease s)))
  | none =>
    let (s, r) := c.decide body s
    restartIfDue (offerReply (buildReply c r.bytes (recordReply c r s)))

/-- The current command while the agent is EXECUTING, when its code is `code`. -/
def State.commandOf (s : State) (code : Byte) : Option Cmd :=
  s.command.filter (fun c => decide (c.code = code))

/-- The event of the execution completion of a command with the given code (R132). -/
def execCommand (code : Byte) (body : Body) (s : State) : Host.Outcome State Fault Refusal :=
  event s (s.commandOf code).isSome (fun s =>
    match s.commandOf code with
    | some c => complete body c s
    | none => s)

/-- UNKNOWN_COMMAND (R133, R181): the current command's code names none of the 22 commands. -/
def execUnknownCommand (s : State) : Host.Outcome State Fault Refusal :=
  event s
    (match s.command with
     | some c => (commandLength c.code).isNone
     | none => false)
    (fun s =>
      match s.command with
      | some c => complete (fun _ s => (s, Reply.refusal .unknown 0#8)) c s
      | none => s)

end Sys2Proof.Machine
end

