-- ==== Sys2Proof/Machine/Commands.lean ====
section
/-! DEFINITION. The management commands that read, and those of the claim, the counters, the relay
settings, the notices and the restart (chapters 8 to 10), each with its meaning. -/

namespace Sys2Proof.Machine

/-! ## Reading commands -/

/-- IDENT (R148). -/
def identBody : Body := fun _ s =>
  (s, Reply.ok (wordBytes Config.partCode ++ [Config.revision] ++ wordBytes s.route.relayAddr ++
    wordBytes s.route.generation ++ [Config.poolSize]))

/-- IDENT, code 01h (R148). -/
def execIdent (s : State) : Host.Outcome State Fault Refusal := execCommand 0x01#8 identBody s

/-- LINE-READ's results for a line (R149, Table 12-4). -/
def LineRec.report (l : LineRec) : List Byte :=
  l.config.bytes ++
    [l.state.code, numByte l.normalQ.length, numByte l.urgentQ.length, boolByte l.await.occupied,
     boolByte l.reservation.isSome]

/-- LINE-READ (R149). -/
def lineReadBody : Body := fun c s =>
  match lineOfByte? (byteAt c.ops 0) with
  | none => (s, Reply.operand 1)
  | some k => (s, Reply.ok (s.line k).report)

/-- LINE-READ, code 09h (R149). -/
def execLineRead (s : State) : Host.Outcome State Fault Refusal := execCommand 0x09#8 lineReadBody s

/-- POOL-READ's results (R150, Table 12-4). -/
def State.poolReport (s : State) : List Byte :=
  [numByte s.pool.free.length, s.pool.state.code, s.pool.waiters] ++
    allLines.flatMap (fun k =>
      [numByte (s.line k).normalQ.length, numByte (s.line k).urgentQ.length]) ++
    [numByte s.agent.queue.length]

/-- POOL-READ (R150). -/
def poolReadBody : Body := fun _ s => (s, Reply.ok s.poolReport)

/-- POOL-READ, code 10h (R150). -/
def execPoolRead (s : State) : Host.Outcome State Fault Refusal := execCommand 0x10#8 poolReadBody s

/-- RELAY-READ's results (R151, Table 12-4). -/
def State.relayReport (s : State) : List Byte :=
  wordBytes s.route.relayAddr ++
    [s.route.defaultAction.code, s.route.broadcastSet, numByte s.pool.reserve,
     numByte s.pool.lowMark, numByte s.pool.highMark, numByte s.agent.leaseSetting]

/-- RELAY-READ (R151). -/
def relayReadBody : Body := fun _ s => (s, Reply.ok s.relayReport)

/-- RELAY-READ, code 11h (R151). -/
def execRelayRead (s : State) : Host.Outcome State Fault Refusal := execCommand 0x11#8 relayReadBody s

/-- NOTICE-READ's results (R151, Table 12-4). -/
def NoticeUnit.report (n : NoticeUnit) : List Byte :=
  allKinds.flatMap (fun q => (n.records.get q.code).bytes) ++ [n.mask] ++ wordBytes n.address ++
    numBytes2 n.interval ++ [n.state.code, numByte n.seq.toNat]

/-- NOTICE-READ (R151, R172). -/
def noticeReadBody : Body := fun _ s => (s, Reply.ok s.notice.report)

/-- NOTICE-READ, code 13h (R151). -/
def execNoticeRead (s : State) : Host.Outcome State Fault Refusal :=
  execCommand 0x13#8 noticeReadBody s

/-! ## The edit claim -/

/-- CLAIM (R140). The lease start and the cached reply that follow are those of `recordReply`. -/
def claimBody : Body := fun c s =>
  match s.agent.claim, c.arrival with
  | none, some k =>
    (startLease (s.modAgent (fun a =>
        { a with claim := some { holder := c.src, line := k }, cache := none })),
      Reply.ok [numByte s.agent.leaseSetting])
  | none, none => (s, Reply.ok [numByte s.agent.leaseSetting])
  | some h, _ =>
    if c.fromHolder s.agent then (startLease s, Reply.ok [numByte s.agent.leaseSetting])
    else (s, Reply.claimed h)

/-- CLAIM, code 02h (R140). -/
def execClaim (s : State) : Host.Outcome State Fault Refusal := execCommand 0x02#8 claimBody s

/-- RELEASE (R141). -/
def releaseBody : Body := fun _ s => (endClaim s, Reply.ok [])

/-- RELEASE, code 03h (R141). -/
def execRelease (s : State) : Host.Outcome State Fault Refusal := execCommand 0x03#8 releaseBody s

/-! ## Counters -/

/-- The sixteen counters of a line as COUNT-READ reports them. -/
def LineRec.counterBytes (l : LineRec) : List Byte := l.counters.toList.flatMap wordBytes

/-- The seven relay-wide counters as COUNT-READ reports them. -/
def RouteUnit.counterBytes (r : RouteUnit) : List Byte := r.counters.toList.flatMap wordBytes

/-- COUNT-READ (R156): the selected counters are reported, and then cleared if the clear flag is set. -/
def countReadBody : Body := fun c s =>
  let clear := decide (byteAt c.ops 1 ≠ 0#8)
  match lineOfByte? (byteAt c.ops 0) with
  | some k =>
    (if clear then s.modLine k (fun l => { l with counters := Vector.replicate 16 0#16 }) else s,
      Reply.ok (s.line k).counterBytes)
  | none =>
    if byteAt c.ops 0 = 8#8 then
      (if clear then s.modRoute (fun r => { r with counters := Vector.replicate 7 0#16 }) else s,
        Reply.ok s.route.counterBytes)
    else (s, Reply.operand 1)

/-- COUNT-READ, code 0Fh (R156). -/
def execCountRead (s : State) : Host.Outcome State Fault Refusal :=
  execCommand 0x0F#8 countReadBody s

/-! ## Relay settings -/

/-- Bit `n` of a change set of at most sixteen bits (R180). -/
def names (set : BitVec 16) (n : Nat) : Bool := set.getLsbD n

/-- The values that RELAY-SET would leave in force (R158). -/
structure RelayValues where
  relayAddr : Addr
  defaultAction : Target
  broadcastSet : LineSet
  reserve : Nat
  lowMark : Nat
  highMark : Nat
  lease : Nat
  deriving DecidableEq, Repr

/-- The values in force. -/
def State.relayValues (s : State) : RelayValues :=
  { relayAddr := s.route.relayAddr
    defaultAction := s.route.defaultAction
    broadcastSet := s.route.broadcastSet
    reserve := s.pool.reserve
    lowMark := s.pool.lowMark
    highMark := s.pool.highMark
    lease := s.agent.leaseSetting }

/-- The change set of RELAY-SET, whose operand bytes are `ops`. -/
def relayChanges (ops : List Byte) : BitVec 16 := (byteAt ops 0).setWidth 16

/-- The values that would stand after a RELAY-SET with operand bytes `ops` (R158). An unnamed value, or
a default action whose code names nothing, stands as it is. -/
def RelayValues.changed (v : RelayValues) (ops : List Byte) : RelayValues :=
  let set := relayChanges ops
  { relayAddr := if names set 0 then wordAt ops 1 else v.relayAddr
    defaultAction :=
      if names set 1 then (Target.ofCode? (byteAt ops 3)).getD v.defaultAction else v.defaultAction
    broadcastSet := if names set 2 then byteAt ops 4 else v.broadcastSet
    reserve := if names set 3 then (byteAt ops 5).toNat else v.reserve
    lowMark := if names set 4 then (byteAt ops 6).toNat else v.lowMark
    highMark := if names set 5 then (byteAt ops 7).toNat else v.highMark
    lease := if names set 6 then (byteAt ops 8).toNat else v.lease }

/-- The number of the first operand of RELAY-SET that fails, if any (R158); `v` are the values that
would stand. -/
def relaySetFailure (ops : List Byte) (v : RelayValues) : Option Nat :=
  let set := relayChanges ops
  if names set 0 ∧ (v.relayAddr = 0#16 ∨ v.relayAddr = 0xFFFF#16) then some 2
  else if names set 1 ∧ Target.ofCode? (byteAt ops 3) = none then some 3
  else if ¬(1 ≤ v.reserve ∧ v.reserve ≤ 8) then some 5
  else if ¬(v.reserve + 1 ≤ v.lowMark ∧ v.lowMark ≤ 64) then some 6
  else if ¬(v.lowMark < v.highMark ∧ v.highMark ≤ 96) then some 7
  else if names set 6 ∧ ¬(5 ≤ v.lease ∧ v.lease ≤ 255) then some 8
  else none

/-- Writes relay settings, reserve, water marks and lease (R159). -/
def writeRelayValues (v : RelayValues) (s : State) : State :=
  { s with
    route := { s.route with
      relayAddr := v.relayAddr, defaultAction := v.defaultAction, broadcastSet := v.broadcastSet }
    pool := { s.pool with reserve := v.reserve, lowMark := v.lowMark, highMark := v.highMark }
    agent := { s.agent with leaseSetting := v.lease } }

/-- RELAY-SET (R158, R159): the values are written, and the pool grants and evaluates at once (R49). -/
def relaySetBody : Body := fun c s =>
  let v := s.relayValues.changed c.ops
  match relaySetFailure c.ops v with
  | some n => (s, Reply.operand n)
  | none =>
    let s := evaluatePool (grantWaiters (writeRelayValues v s))
    (s, Reply.ok (wordBytes s.route.relayAddr))

/-- RELAY-SET, code 12h (R159). -/
def execRelaySet (s : State) : Host.Outcome State Fault Refusal := execCommand 0x12#8 relaySetBody s

/-! ## Notices -/

/-- Withdraws a waiting slot request whose emission condition has ended (R166). -/
def withdrawIfEnded (s : State) : State :=
  if s.notice.emits then s else s.modPool (fun p => { p with noticeWaiting := false })

/-- The notice unit after a NOTICE-SET with operand bytes `ops` (R160, R165). -/
def NoticeUnit.changed (n : NoticeUnit) (ops : List Byte) : NoticeUnit :=
  let set := (byteAt ops 0).setWidth 16
  { n with
    address := if names set 0 then wordAt ops 1 else n.address
    mask := if names set 1 then byteAt ops 3 else n.mask
    interval := if names set 2 then (wordAt ops 4).toNat else n.interval }

/-- The number of the first operand of NOTICE-SET that fails, if any (R160). -/
def noticeSetFailure (ops : List Byte) : Option Nat :=
  let set := (byteAt ops 0).setWidth 16
  if names set 0 ∧ wordAt ops 1 = 0xFFFF#16 then some 2
  else if names set 2 ∧ ¬(100 ≤ (wordAt ops 4).toNat ∧ (wordAt ops 4).toNat ≤ 5000) then some 4
  else none

/-- NOTICE-SET (R160). The emission test follows the command (`execNoticeSet`). -/
def noticeSetBody : Body := fun c s =>
  match noticeSetFailure c.ops with
  | some n => (s, Reply.operand n)
  | none => (withdrawIfEnded (s.modNotice (fun n => n.changed c.ops)), Reply.ok [])

/-- A notice record after a listed count is subtracted from its count (R169). -/
def NoticeRecord.acked (listed : BitVec 8) (r : NoticeRecord) : NoticeRecord :=
  { r with count := r.count - listed, pending := r.pending && decide (r.count - listed ≠ 0#8) }

/-- The notice unit after an acknowledgement of the sequence in force (R169). -/
def NoticeUnit.acked (n : NoticeUnit) : NoticeUnit :=
  { n with
    records := n.listed.foldl
      (fun rs p => rs.set p.1.code (NoticeRecord.acked p.2 (rs.get p.1.code))) n.records
    listed := []
    state := .idle
    timer := none }

/-- NOTICE-ACK (R161, R169). The emission test follows the command (`execNoticeAck`). -/
def noticeAckBody : Body := fun c s =>
  let q := byteAt c.ops 0
  if 15 < q.toNat then (s, Reply.operand 1)
  else if q.toNat ≠ s.notice.seq.toNat then (s, Reply.refusal .stale 0#8)
  else (withdrawIfEnded (s.modNotice NoticeUnit.acked), Reply.ok [])

/-- A command of the notice unit, followed by the emission test within its event (R166). -/
def execNoticeCommand (code : Byte) (body : Body) (s : State) : Host.Outcome State Fault Refusal :=
  event s (s.commandOf code).isSome (fun s =>
    match s.commandOf code with
    | some c => emissionTest (complete body c s)
    | none => s)

/-- NOTICE-SET, code 14h (R160). -/
def execNoticeSet (s : State) : Host.Outcome State Fault Refusal :=
  execNoticeCommand 0x14#8 noticeSetBody s

/-- NOTICE-ACK, code 15h (R161, R169). -/
def execNoticeAck (s : State) : Host.Outcome State Fault Refusal :=
  execNoticeCommand 0x15#8 noticeAckBody s

/-! ## Restart -/

/-- RESTART (R145, R162): the agent enters RESTART-PENDING with the reply it is about to send. -/
def restartBody : Body := fun c s =>
  (s.modAgent (fun a => { a with state := .restartPending, restartReply := some c.slot }), Reply.ok [])

/-- RESTART, code 16h (R162). -/
def execRestart (s : State) : Host.Outcome State Fault Refusal := execCommand 0x16#8 restartBody s

end Sys2Proof.Machine
end

