-- ==== Sys2Proof/Machine/Tables.lean ====
section
/-! DEFINITION. The commands of the route tables (section 4.7, R72 to R77) and of the poll lists
(section 7.7, R127 to R130), each with its meaning. -/

namespace Sys2Proof.Machine

/-! ## Route tables -/

/-- The index of a route entry that a byte names, if any. -/
def entryOfByte? (b : Byte) : Option (Fin 64) :=
  if h : b.toNat < 64 then some ⟨b.toNat, h⟩ else none

/-- ROUTE-READ (R74): operand 1 names the table, operand 2 the index. -/
def routeReadBody : Body := fun c s =>
  let report (t : RouteTable) : State × Reply :=
    match entryOfByte? (byteAt c.ops 1) with
    | none => (s, Reply.operand 2)
    | some n => (s, Reply.ok ((t.get n).bytes ++ wordBytes s.route.generation))
  match (byteAt c.ops 0).toNat with
  | 0 => report s.route.active
  | 1 => report s.route.shadow
  | _ => (s, Reply.operand 1)

/-- ROUTE-READ, code 04h (R74). -/
def execRouteRead (s : State) : Host.Outcome State Fault Refusal :=
  execCommand 0x04#8 routeReadBody s

/-- ROUTE-WRITE (R72): the operands are tested in order, and one shadow entry is replaced whole. -/
def routeWriteBody : Body := fun c s =>
  let o := byteAt c.ops
  match entryOfByte? (o 0) with
  | none => (s, Reply.operand 1)
  | some n =>
    match boolOfCode? (o 1) with
    | none => (s, Reply.operand 2)
    | some valid =>
      match Target.ofCode? (o 6) with
      | none => (s, Reply.operand 5)
      | some target =>
        match Rewrite.ofCode? (o 7) with
        | none => (s, Reply.operand 6)
        | some rewrite =>
          match boolOfCode? (o 11) with
          | none => (s, Reply.operand 9)
          | some hairpin =>
            let e : RouteEntry :=
              { valid := valid, low := wordAt c.ops 2, high := wordAt c.ops 4, target := target
                rewrite := rewrite, base := wordAt c.ops 8, arrivals := o 10, hairpin := hairpin }
            (s.modRoute (fun r => { r with shadow := r.shadow.set n e }), Reply.ok [])

/-- ROUTE-WRITE, code 05h (R72). -/
def execRouteWrite (s : State) : Host.Outcome State Fault Refusal :=
  execCommand 0x05#8 routeWriteBody s

/-- An entry made invalid, its other fields kept (R73). -/
def RouteEntry.cleared (e : RouteEntry) : RouteEntry := { e with valid := false }

/-- ROUTE-CLEAR (R73): one shadow entry, or with FFh all of them, made invalid. -/
def routeClearBody : Body := fun c s =>
  let b := byteAt c.ops 0
  if b = 0xFF#8 then
    (s.modRoute (fun r => { r with shadow := r.shadow.map RouteEntry.cleared }), Reply.ok [])
  else
    match entryOfByte? b with
    | none => (s, Reply.operand 1)
    | some n =>
      (s.modRoute (fun r => { r with shadow := r.shadow.set n (r.shadow.get n).cleared }), Reply.ok [])

/-- ROUTE-CLEAR, code 06h (R73). -/
def execRouteClear (s : State) : Host.Outcome State Fault Refusal :=
  execCommand 0x06#8 routeClearBody s

/-- ROUTE-COPY (R73). -/
def routeCopyBody : Body := fun _ s =>
  (s.modRoute (fun r => { r with shadow := r.active }), Reply.ok [])

/-- ROUTE-COPY, code 07h (R73). -/
def execRouteCopy (s : State) : Host.Outcome State Fault Refusal :=
  execCommand 0x07#8 routeCopyBody s

/-- ROUTE-COMMIT (R75 to R77): the expected generation, then every valid shadow entry, is checked; a
commit that passes makes the shadow active and increments the generation. -/
def routeCommitBody : Body := fun c s =>
  let g := s.route.generation
  if wordAt c.ops 0 ≠ g then
    (s, { status := .generation, detail := 0#8, results := wordBytes g })
  else
    match commitFailure s.route.shadow with
    | some n => (s, { status := .table, detail := numByte n, results := wordBytes g })
    | none =>
      (s.modRoute (fun r => { r with active := r.shadow, generation := r.generation + 1#16 }),
        Reply.ok (wordBytes (g + 1#16)))

/-- ROUTE-COMMIT, code 08h (R76, R77). -/
def execRouteCommit (s : State) : Host.Outcome State Fault Refusal :=
  execCommand 0x08#8 routeCommitBody s

/-! ## Poll lists -/

/-- POLL-READ's results for a line and an index (R130, Table 12-4). -/
def LineRec.pollReport (l : LineRec) (n : Nat) : List Byte :=
  [numByte l.pollList.length, numByte l.pollPos, numByte l.cycle.toNat] ++
    (match l.pollList[n]? with
     | some e => wordBytes e.node ++ [e.presence.code, numByte e.miss]
     | none => [0#8, 0#8, 0xFF#8, 0#8])

/-- POLL-READ (R130). -/
def pollReadBody : Body := fun c s =>
  match lineOfByte? (byteAt c.ops 0) with
  | none => (s, Reply.operand 1)
  | some k =>
    let n := (byteAt c.ops 1).toNat
    if 15 < n then (s, Reply.operand 2) else (s, Reply.ok ((s.line k).pollReport n))

/-- POLL-READ, code 0Ch (R130). -/
def execPollRead (s : State) : Host.Outcome State Fault Refusal := execCommand 0x0C#8 pollReadBody s

/-- The entry a POLL-WRITE writes (R127). -/
def PollEntry.fresh (node : Addr) : PollEntry := { node := node, presence := .present, miss := 0 }

/-- An entry other than the one at index `n` holds the node address (R127). -/
def heldElsewhere (es : List PollEntry) (n : Nat) (node : Addr) : Bool :=
  (es.eraseIdx n).any (fun e => decide (e.node = node))

/-- POLL-WRITE (R127), its checks in the rule's order. The turn that follows it on an idle POLLED line is taken
at the end of the event, after the reply is offered (`settle`); R127 says only that it follows: DESIGN CHOICE
(log entry 5). -/
def pollWriteBody : Body := fun c s =>
  match lineOfByte? (byteAt c.ops 0) with
  | none => (s, Reply.operand 1)
  | some k =>
    let n := (byteAt c.ops 1).toNat
    let node := wordAt c.ops 2
    let es := (s.line k).pollList
    if node = 0#16 ∨ node = 0xFFFF#16 then (s, Reply.operand 3)
    else if es.length < n then (s, Reply.operand 2)
    else if heldElsewhere es n node then (s, Reply.operand 3)
    else if n = es.length ∧ Config.pollCap ≤ es.length then (s, Reply.refusal .full 0#8)
    else
      let es' := if n < es.length then es.set n (PollEntry.fresh node) else es ++ [PollEntry.fresh node]
      (s.modLine k (fun l => { l with pollList := es' }), Reply.ok [numByte es'.length])

/-- POLL-WRITE, code 0Dh (R127). -/
def execPollWrite (s : State) : Host.Outcome State Fault Refusal := execCommand 0x0D#8 pollWriteBody s

/-- POLL-REMOVE (R128). Its turn (R113) is taken at the end of the event, as a POLL-WRITE's is (log entry 5). -/
def pollRemoveBody : Body := fun c s =>
  match lineOfByte? (byteAt c.ops 0) with
  | none => (s, Reply.operand 1)
  | some k =>
    let n := (byteAt c.ops 1).toNat
    let es := (s.line k).pollList
    if es.length ≤ n then (s, Reply.operand 2)
    else
      let es' := es.eraseIdx n
      (s.modLine k (fun l =>
          { l with pollList := es', pollPos := if n < l.pollPos then l.pollPos - 1 else l.pollPos }),
        Reply.ok [numByte es'.length])

/-- POLL-REMOVE, code 0Eh (R128). -/
def execPollRemove (s : State) : Host.Outcome State Fault Refusal :=
  execCommand 0x0E#8 pollRemoveBody s

end Sys2Proof.Machine
end

