-- ==== Sys2Proof/Machine/LineCommands.lean ====
section
/-! DEFINITION. LINE-SET and LINE-RESET (section 9.3), with the bringing up and taking down of a line
(R20, R21, R87, R88). -/

namespace Sys2Proof.Machine

/-! ## LINE-SET's operands and tests -/

/-- The change set of LINE-SET, whose operand bytes are `ops`: bit `n` names field `n` of Table 2-1,
counted from 0 (R180). -/
def lineChanges (ops : List Byte) : BitVec 16 := wordAt ops 1

/-- A number in a range. -/
def inRange (lo hi n : Nat) : Bool := decide (lo ≤ n) && decide (n ≤ hi)

/-- Whether the value operand for field `n` of Table 2-1 lies in the field's range (R13, R147). The
operand bytes stand as Table 12-4 lays them out, the line first. -/
def fieldInRange (ops : List Byte) (n : Nat) : Bool :=
  let o := fun i => (byteAt ops i).toNat
  match n with
  | 0 => (Mode.ofCode? (byteAt ops 3)).isSome
  | 1 => inRange 1 4095 (wordAt ops 4).toNat
  | 2 => (Parity.ofCode? (byteAt ops 6)).isSome
  | 3 => inRange 1 2 (o 7)
  | 4 => inRange 2 31 (o 8)
  | 5 => inRange 0 15 (o 9)
  | 6 => (boolOfCode? (byteAt ops 10)).isSome
  | 7 => inRange 1 120 (o 11)
  | 8 => inRange 5 1000 (wordAt ops 12).toNat
  | 9 => inRange 0 7 (o 14)
  | 10 => inRange 2 255 (o 15)
  | 11 => inRange 1 7 (o 16)
  | 12 => inRange 1 15 (o 17)
  | 13 => inRange 1 15 (o 18)
  | _ => inRange 0 255 (o 19)

/-- The first named field of Table 2-1 out of its range, if any (R152, test 2). -/
def firstOutOfRange (ops : List Byte) : Option Nat :=
  (List.range 15).find? (fun n => names (lineChanges ops) n && !fieldInRange ops n)

/-- The configuration record with the named fields replaced (R152 to R154). -/
def LineConfig.changed (c : LineConfig) (ops : List Byte) : LineConfig :=
  let nm := names (lineChanges ops)
  let o := fun i => (byteAt ops i).toNat
  { mode := if nm 0 then (Mode.ofCode? (byteAt ops 3)).getD c.mode else c.mode
    divisor := if nm 1 then (wordAt ops 4).toNat else c.divisor
    parity := if nm 2 then (Parity.ofCode? (byteAt ops 6)).getD c.parity else c.parity
    stopBits := if nm 3 then o 7 else c.stopBits
    gapLimit := if nm 4 then o 8 else c.gapLimit
    turnaround := if nm 5 then o 9 else c.turnaround
    mgmtAccepted := if nm 6 then (boolOfCode? (byteAt ops 10)).getD c.mgmtAccepted else c.mgmtAccepted
    quota := if nm 7 then o 11 else c.quota
    confirmTimeout := if nm 8 then (wordAt ops 12).toNat else c.confirmTimeout
    retryLimit := if nm 9 then o 14 else c.retryLimit
    replyWindow := if nm 10 then o 15 else c.replyWindow
    missLimit := if nm 11 then o 16 else c.missLimit
    burstLimit := if nm 12 then o 17 else c.burstLimit
    recheckCycles := if nm 13 then o 18 else c.recheckCycles
    pollPause := if nm 14 then o 19 else c.pollPause }

/-- The character format is not that of the other record (R15, R152). -/
def LineConfig.formatDiffers (a b : LineConfig) : Bool :=
  decide (a.divisor ≠ b.divisor) || decide (a.parity ≠ b.parity) || decide (a.stopBits ≠ b.stopBits)

/-- The record keeps a way in for management: its mode is not OFF and it accepts management (R153). -/
def LineConfig.wayIn (c : LineConfig) : Bool := decide (c.mode ≠ .off) && c.mgmtAccepted

/-- Some line keeps a way in when line `k`'s record becomes `c` (R153). -/
def keepsWayIn (s : State) (k : Line) (c : LineConfig) : Bool :=
  allLines.any (fun j => if j = k then c.wayIn else (s.line j).config.wayIn)

/-- Tests 2 to 5 of LINE-SET on line `k` (R152): the refusal, if any. -/
def lineSetRefusal (s : State) (k : Line) (ops : List Byte) : Option Reply :=
  let l := s.line k
  let c := l.config.changed ops
  match firstOutOfRange ops with
  | some n => some (Reply.operand (n + 3))
  | none =>
    if l.state ≠ .off ∧ c.formatDiffers l.config then some (Reply.refusal .lineState 0#8)
    else if l.state ≠ .off ∧ c.mode ≠ .off ∧ c.mode ≠ l.config.mode then
      some (Reply.refusal .lineState 0#8)
    else if !keepsWayIn s k c then some (Reply.refusal .lineState 1#8)
    else none

/-! ## Bringing a line up and taking it down -/

/-- An OFF line whose mode has become DIRECT or POLLED becomes ACTIVE (R20). That its reservation request comes
before the LINE-CHANGE event, whose NOTICE may take a slot, follows the order of R20's list, which R20 itself
does not fix: DESIGN CHOICE (log entry 5). -/
def lineUp (k : Line) (s : State) : State :=
  let s := s.modLine k (fun l =>
    { l with
      state := .active, rx := Receiver.fresh, turnaround := none, faultTimer := none, recovery := none
      pollPos := 0, cycle := 0#4, burst := 0 })
  noteEvent .lineChange (some k) none (requestReservation k s)

/-- The receive reservation of line `k`, if held, is released (R21). -/
def releaseReservation (k : Line) (s : State) : State :=
  match (s.line k).reservation with
  | some i => releaseRef i (s.modLine k (fun l => { l with reservation := none }))
  | none => s

/-- An ACTIVE or FAULT line whose mode has become OFF becomes OFF (R21, R87): it is flushed while
already down, its timers are cancelled, its reservation is released or it stops waiting, and
LINE-CHANGE is given. That the flush and the release of the reservation, whose slots may go to waiting lines, come
before the LINE-CHANGE event, whose NOTICE may take one, follows the order of R21's list, which R21 itself does not
fix: DESIGN CHOICE (log entry 5). `polled` says whether its mode was POLLED. -/
def lineDown (k : Line) (polled : Bool) (s : State) : State :=
  let s := s.modPool (fun p => { p with waiters := LineSet.erase p.waiters k })
  let s := s.modLine k (fun l =>
    { l with
      state := .off, turnaround := none, faultTimer := none, recovery := none
      rx := Receiver.idleStopped })
  noteEvent .lineChange (some k) none (releaseReservation k (flushLine k polled s))

/-- The burst limit, the recheck cycles or the poll pause is not that of the other record (R113, R154). -/
def LineConfig.turnFieldsDiffer (a b : LineConfig) : Bool :=
  decide (a.burstLimit ≠ b.burstLimit) || decide (a.recheckCycles ≠ b.recheckCycles) ||
    decide (a.pollPause ≠ b.pollPause)

/-- Step 2 of a LINE-SET on line `k`, whose record was `old` (R154): the change of line state, if any. -/
def changeLineState (k : Line) (old : LineRec) (s : State) : State :=
  if old.state = .off then
    if (s.line k).config.mode = .off then s else lineUp k s
  else if (s.line k).config.mode = .off then lineDown k (decide (old.config.mode = .polled)) s
  else s

/-- Step 3 of a LINE-SET on line `k`, whose record was `old` (R113, R154): a POLLED line that is idle and past
turnaround takes a turn, before the reply is offered, when its burst limit, recheck cycles or poll pause has
changed. So does a line that has come up (R113); that its turn too stands at step 3 is a DESIGN CHOICE (log
entry 5). -/
def turnAfterSet (k : Line) (old : LineRec) (s : State) : State :=
  if (s.line k).takesTurn &&
      (decide (old.state = .off) || (s.line k).config.turnFieldsDiffer old.config) then takeTurn k s
  else s

/-- LINE-SET carried out on line `k` (R154, steps 1 to 3). -/
def carryOutLineSet (k : Line) (ops : List Byte) (s : State) : State :=
  turnAfterSet k (s.line k) (changeLineState k (s.line k)
    (s.modLine k (fun l => { l with config := l.config.changed ops })))

/-- LINE-SET (R152 to R154). -/
def lineSetBody : Body := fun c s =>
  match lineOfByte? (byteAt c.ops 0) with
  | none => (s, Reply.operand 1)
  | some k =>
    match lineSetRefusal s k c.ops with
    | some r => (s, r)
    | none =>
      let s := carryOutLineSet k c.ops s
      (s, Reply.ok [(s.line k).state.code])

/-- LINE-SET, code 0Ah (R154). -/
def execLineSet (s : State) : Host.Outcome State Fault Refusal := execCommand 0x0A#8 lineSetBody s

/-! ## LINE-RESET -/

/-- LINE-RESET of line `k` (R88, R155): an ACTIVE or FAULT line is flushed and keeps its state, its
reservation or place among the waiters, its break condition and its fault and recovery timers. The
turnaround wait is cancelled, and started again where a POLLED transmission was aborted (Table 2-8). -/
def resetLine (k : Line) (s : State) : State :=
  if (s.line k).state = .off then s
  else
    flushLine k (decide ((s.line k).config.mode = .polled))
      (s.modLine k (fun l => { l with turnaround := none }))

/-- LINE-RESET (R155). -/
def lineResetBody : Body := fun c s =>
  match lineOfByte? (byteAt c.ops 0) with
  | none => (s, Reply.operand 1)
  | some k =>
    let s := resetLine k s
    (s, Reply.ok [(s.line k).state.code])

/-- LINE-RESET, code 0Bh (R155). -/
def execLineReset (s : State) : Host.Outcome State Fault Refusal := execCommand 0x0B#8 lineResetBody s

end Sys2Proof.Machine
end

