-- ==== Sys2Proof/Machine/Dispatch.lean ====
section
/-! DEFINITION. The dispatch of a command to its meaning, one arm per row of the opcode table. -/

namespace Sys2Proof.Machine

/-- The effect of a command on everything but the queue of waiting commands. -/
def exec (i : Instr) (s : State) : Host.Outcome State Fault Refusal :=
  match i with
  | .rstnAssert => Sys2Proof.Machine.execRstnAssert s
  | .rstnRelease addr msel => Sys2Proof.Machine.execRstnRelease addr msel s
  | .characterReceived k c => Sys2Proof.Machine.execCharacterReceived k c s
  | .gapTimerExpiry k => Sys2Proof.Machine.execGapTimerExpiry k s
  | .quietTimerExpiry k => Sys2Proof.Machine.execQuietTimerExpiry k s
  | .receiveCompletion k b => Sys2Proof.Machine.execReceiveCompletion k b s
  | .reservationGrant => Sys2Proof.Machine.execReservationGrant s
  | .transmitSelection k => Sys2Proof.Machine.execTransmitSelection k s
  | .polledTurn k => Sys2Proof.Machine.execPolledTurn k s
  | .transmitCompletion k => Sys2Proof.Machine.execTransmitCompletion k s
  | .confirmTimerExpiry k => Sys2Proof.Machine.execConfirmTimerExpiry k s
  | .replyWindowExpiry k => Sys2Proof.Machine.execReplyWindowExpiry k s
  | .turnaroundEnd k => Sys2Proof.Machine.execTurnaroundEnd k s
  | .pollPauseExpiry k => Sys2Proof.Machine.execPollPauseExpiry k s
  | .faultTimerExpiry k => Sys2Proof.Machine.execFaultTimerExpiry k s
  | .rxdReturnToMark k => Sys2Proof.Machine.execRxdReturnToMark k s
  | .rxdSpaceInFault k => Sys2Proof.Machine.execRxdSpaceInFault k s
  | .recoveryTimerExpiry k => Sys2Proof.Machine.execRecoveryTimerExpiry k s
  | .agentTake => Sys2Proof.Machine.execAgentTake s
  | .unknownCommand => Sys2Proof.Machine.execUnknownCommand s
  | .replyWaitRoom => Sys2Proof.Machine.execReplyWaitRoom s
  | .ident => Sys2Proof.Machine.execIdent s
  | .claim => Sys2Proof.Machine.execClaim s
  | .release => Sys2Proof.Machine.execRelease s
  | .routeRead => Sys2Proof.Machine.execRouteRead s
  | .routeWrite => Sys2Proof.Machine.execRouteWrite s
  | .routeClear => Sys2Proof.Machine.execRouteClear s
  | .routeCopy => Sys2Proof.Machine.execRouteCopy s
  | .routeCommit => Sys2Proof.Machine.execRouteCommit s
  | .lineRead => Sys2Proof.Machine.execLineRead s
  | .lineSet => Sys2Proof.Machine.execLineSet s
  | .lineReset => Sys2Proof.Machine.execLineReset s
  | .pollRead => Sys2Proof.Machine.execPollRead s
  | .pollWrite => Sys2Proof.Machine.execPollWrite s
  | .pollRemove => Sys2Proof.Machine.execPollRemove s
  | .countRead => Sys2Proof.Machine.execCountRead s
  | .poolRead => Sys2Proof.Machine.execPoolRead s
  | .relayRead => Sys2Proof.Machine.execRelayRead s
  | .relaySet => Sys2Proof.Machine.execRelaySet s
  | .noticeRead => Sys2Proof.Machine.execNoticeRead s
  | .noticeSet => Sys2Proof.Machine.execNoticeSet s
  | .noticeAck => Sys2Proof.Machine.execNoticeAck s
  | .restart => Sys2Proof.Machine.execRestart s
  | .warmRestart => Sys2Proof.Machine.execWarmRestart s
  | .leaseExpiry => Sys2Proof.Machine.execLeaseExpiry s
  | .noticeSlotServed => Sys2Proof.Machine.execNoticeSlotServed s
  | .noticeIntervalExpiry => Sys2Proof.Machine.execNoticeIntervalExpiry s
  | .startBit k mid => Sys2Proof.Machine.execStartBit k mid s

end Sys2Proof.Machine
end

