-- ==== Sys2Proof/Safety.lean ====
section
/-! DEFINITION. The terms claims are stated in: views of the state that say what an event leaves
unchanged, and the invariants of the part. -/

namespace Sys2Proof.Machine

/-! ## Views -/

/-- The part of a line that transmissions and admissions leave alone: its configuration, state,
receiver and port timers, the confirm timer, the duplicate memo, the poll list and the reply window. -/
structure PortView where
  config : LineConfig
  state : LineState
  rxd : Level
  phase : RxPhase
  crc : BitVec 16
  brk : Bool
  gap : Option Nat
  quiet : Option Nat
  turnaround : Option Nat
  faultTimer : Option Nat
  recovery : Option Nat
  confirmTimer : Option Nat
  memo : List MemoEntry
  pollList : List PollEntry
  window : Window
  windowTimer : Option Nat
  deriving DecidableEq, Repr

/-- The port view of a line. -/
def LineRec.port (l : LineRec) : PortView :=
  { config := l.config
    state := l.state
    rxd := l.rxd
    phase := l.rx.phase
    crc := l.rx.crc
    brk := l.rx.brk
    gap := l.rx.gap
    quiet := l.rx.quiet
    turnaround := l.turnaround
    faultTimer := l.faultTimer
    recovery := l.recovery
    confirmTimer := l.confirmTimer
    memo := l.memo
    pollList := l.pollList
    window := l.window
    windowTimer := l.windowTimer }

/-- The port view of line `k`. -/
def State.port (s : State) (k : Line) : PortView := (s.line k).port

/-- The part of a line that only its own transmissions change. -/
structure EngineView where
  tp : Option TxItem
  await : Await
  pendingConf : List ConfEntry
  pollPos : Nat
  cycle : BitVec 4
  burst : Nat
  pauseTimer : Option Nat
  inChar : Bool
  deriving DecidableEq, Repr

/-- The engine view of a line. -/
def LineRec.engine (l : LineRec) : EngineView :=
  { tp := l.tp
    await := l.await
    pendingConf := l.pendingConf
    pollPos := l.pollPos
    cycle := l.cycle
    burst := l.burst
    pauseTimer := l.pauseTimer
    inChar := l.rx.inChar }

/-- The engine view of line `k`. -/
def State.engine (s : State) (k : Line) : EngineView := (s.line k).engine

/-- Everything outside the lines that traffic leaves alone: the reset input and straps, the route
tables, the settings of every block, the edit claim with its lease and cache, and the queue of
commands. -/
structure Globals where
  rstnLow : Bool
  straps : Straps
  active : RouteTable
  shadow : RouteTable
  generation : BitVec 16
  relayAddr : Addr
  defaultAction : Target
  broadcastSet : LineSet
  reserve : Nat
  lowMark : Nat
  highMark : Nat
  claim : Option Claim
  lease : Option Nat
  leaseSetting : Nat
  cache : Option CacheEntry
  mask : BitVec 8
  address : Addr
  interval : Nat
  pending : List Instr
  deriving DecidableEq, Repr

/-- The globals of a state. -/
def State.globals (s : State) : Globals :=
  { rstnLow := s.rstnLow
    straps := s.straps
    active := s.route.active
    shadow := s.route.shadow
    generation := s.route.generation
    relayAddr := s.route.relayAddr
    defaultAction := s.route.defaultAction
    broadcastSet := s.route.broadcastSet
    reserve := s.pool.reserve
    lowMark := s.pool.lowMark
    highMark := s.pool.highMark
    claim := s.agent.claim
    lease := s.agent.lease
    leaseSetting := s.agent.leaseSetting
    cache := s.agent.cache
    mask := s.notice.mask
    address := s.notice.address
    interval := s.notice.interval
    pending := s.pending }

/-- The notice kinds whose events admissions, releases and the work of the pool can give. -/
def NoticeKind.ofTraffic : NoticeKind → Bool
  | .poolLow | .counterFull | .unrouted => true
  | .restarted | .lineChange | .nodeLost | .nodeFound | .claimLapsed => false

/-- State `t` agrees with `s` in everything that the consequences of an event (selections, turns, the
agent's next command, the pool's service, notices) leave alone: the globals, every line's port view,
every per-line counter but Q_REFUSED, every relay-wide counter but DISCARDED and UNROUTED, and the
records of the notice kinds that traffic does not give. -/
structure Steady (s t : State) : Prop where
  globals : t.globals = s.globals
  port : ∀ k, t.port k = s.port k
  counter : ∀ k c, c ≠ .qRefused → (t.line k).counter c = (s.line k).counter c
  relayCounter : ∀ c, c ≠ .discarded → c ≠ .unrouted → t.route.counter c = s.route.counter c
  record : ∀ q : NoticeKind, q.ofTraffic = false → t.notice.records.get q.code = s.notice.records.get q.code

/-- Nothing is left to do in the event, as between events. An ACTIVE DIRECT line with an empty
transmit position has nothing to send (R82, R83). An ACTIVE POLLED line with an empty transmit position, past
turnaround, has nothing to send either, and no list to poll or a poll pause running (R113 to R117). An IDLE agent
has no command waiting (R132). A NORMAL pool has at least the low water mark of free slots, a LOW pool fewer than
the high water mark (R48). -/
structure Settled (s : State) : Prop where
  direct : ∀ k, (s.line k).state = .active → (s.line k).config.mode = .direct → (s.line k).tp = none →
    (s.line k).pendingConf = [] ∧ (s.line k).urgentQ = [] ∧ (∀ i, (s.line k).await ≠ .due i) ∧
    ((s.line k).await = .empty → (s.line k).normalQ = [])
  polled : ∀ k, (s.line k).state = .active → (s.line k).config.mode = .polled → (s.line k).tp = none →
    (s.line k).rx.phase = .hunt → (s.line k).window = .closed → (s.line k).turnaround = none →
    (s.line k).pendingConf = [] ∧ (s.line k).urgentQ = [] ∧ (∀ i, (s.line k).await ≠ .due i) ∧
    ((s.line k).await = .empty →
      (s.line k).pollList = [] ∨ (s.line k).burst < (s.line k).config.burstLimit →
      (s.line k).normalQ = []) ∧
    ((s.line k).pollList = [] ∨ (s.line k).pauseTimer ≠ none)
  agent : s.agent.state = .idle → s.agent.queue = []
  normal : s.pool.state = .normal → s.pool.lowMark ≤ s.pool.free.length
  low : s.pool.state = .low → s.pool.free.length < s.pool.highMark

/-- A line that chooses no transmission of its own accord: it is down, sending, or a POLLED line that
is not past turnaround. -/
def LineRec.atRest (l : LineRec) : Bool := !l.selects && !l.takesTurn

/-- State `t` is state `u` with the consequences of the event taken (log entry 5): it is `settle u`; it
agrees with `u` in all that `Steady` names; the engine of a line that may not transmit in `u` is as it
was; and where nothing is left to do in `u`, `t` is `u`. -/
structure Follows (u t : State) : Prop where
  settled : t = settle u
  steady : Steady u t
  resting : ∀ k, (u.line k).atRest = true → t.engine k = u.engine k
  unchanged : Settled u → t = u

/-! ## Lines after a reception -/

/-- The line after the end of a character, and nothing more done with it: the turnaround wait of a POLLED
line starts again (R35), and of the timers between characters only SKIP's quiet timer (R27, R30). -/
def LineRec.afterChar (l : LineRec) (stop : Level) : LineRec :=
  { l with
    rxd := stop
    turnaround :=
      if l.config.mode = .polled then
        (if l.config.turnaround = 0 then none else some l.config.turnaround)
      else l.turnaround
    rx := { l.rx with
            inChar := false
            gap := none
            quiet := if l.rx.phase = .skip then some l.config.gapLimit else none } }

/-- The line with its receiver back in HUNT and no timer between characters running (R28, R29, R30). -/
def LineRec.backInHunt (l : LineRec) : LineRec :=
  { l with rx := { l.rx with phase := .hunt, gap := none, quiet := none } }

/-- The line with its transmit position filled. On a POLLED line the driver is enabled, and a character
the receiver was inside is not taken (R35). -/
def LineRec.sending (l : LineRec) (x : TxItem) : LineRec :=
  { l with
    tp := some x
    rx := { l.rx with inChar := decide (l.config.mode ≠ .polled) && l.rx.inChar } }

/-! ## Commands -/

/-- The current command `c` is answered by its own part: RSTn is high, it is not answered by replay, its
length is the one its code requires, and it has the claim where it needs it (R133, tests 1 to 4). -/
structure Ready (s : State) (c : Cmd) : Prop where
  up : s.rstnLow = false
  current : s.command = some c
  fresh : c.replay s.agent = none
  length : commandLength c.code = some c.len
  claim : c.needsClaim = true → c.fromHolder s.agent = true

/-- The reply `r` to command `c` is built in the command's slot and offered to its arrival line (R135,
R136). -/
def State.replied (s : State) (c : Cmd) (r : Reply) : State :=
  offerReply (s.modFrame c.slot (fun f =>
    { dest := f.src, src := s.route.relayAddr, kind := .mreply, confirm := false, seq := f.seq
      len := 4 + r.results.length
      payload := [c.code, c.tag, r.status.code, r.detail] ++ r.results }))

/-- After a command answered OK: from the holder, the lease starts with the setting in force and the
cache takes the reply (R142, R143); from any other station nothing changes. -/
def State.recorded (s : State) (c : Cmd) (r : Reply) : State :=
  if c.fromHolder s.agent then
    s.modAgent (fun a =>
      { a with
        lease := some a.leaseSetting
        cache := some
          { code := c.code, tag := c.tag, reply := [r.status.code, r.detail] ++ r.results } })
  else s

/-- The state after command `c` is answered OK with reply `r` in a state its effect has made `s`. -/
def State.answeredOk (s : State) (c : Cmd) (r : Reply) : State := (s.recorded c r).replied c r

/-- The code of the management command whose execution completion a row is (Table 12-4). -/
def commandCode? : Instr → Option Byte
  | .ident => some 0x01#8 | .claim => some 0x02#8 | .release => some 0x03#8
  | .routeRead => some 0x04#8 | .routeWrite => some 0x05#8 | .routeClear => some 0x06#8
  | .routeCopy => some 0x07#8 | .routeCommit => some 0x08#8 | .lineRead => some 0x09#8
  | .lineSet => some 0x0A#8 | .lineReset => some 0x0B#8 | .pollRead => some 0x0C#8
  | .pollWrite => some 0x0D#8 | .pollRemove => some 0x0E#8 | .countRead => some 0x0F#8
  | .poolRead => some 0x10#8 | .relayRead => some 0x11#8 | .relaySet => some 0x12#8
  | .noticeRead => some 0x13#8 | .noticeSet => some 0x14#8 | .noticeAck => some 0x15#8
  | .restart => some 0x16#8
  | .rstnAssert | .rstnRelease _ _ | .characterReceived _ _ | .gapTimerExpiry _
  | .quietTimerExpiry _ | .receiveCompletion _ _ | .reservationGrant | .transmitSelection _
  | .polledTurn _ | .transmitCompletion _ | .confirmTimerExpiry _ | .replyWindowExpiry _
  | .turnaroundEnd _ | .pollPauseExpiry _ | .faultTimerExpiry _ | .rxdReturnToMark _
  | .rxdSpaceInFault _ | .recoveryTimerExpiry _ | .agentTake | .unknownCommand | .replyWaitRoom
  | .warmRestart | .leaseExpiry | .noticeSlotServed | .noticeIntervalExpiry | .startBit _ _ => none

/-- What follows a command's reply in the command's own event: after NOTICE-SET and NOTICE-ACK the
emission test (R166), after any other command nothing. -/
def afterReply (i : Instr) (s : State) : State :=
  if i = .noticeSet ∨ i = .noticeAck then emissionTest s else s

/-! ## The receiver's bytes -/

/-- A run of good bytes given to a receiver inside a frame, up to the byte that ends the frame. -/
def Receiver.feed (rx : Receiver) (f : Frame) : List Byte → Receiver × Frame × ByteResult
  | [] => (rx, f, .more)
  | b :: bs =>
    match rx.takeByte f b with
    | (rx', f', .more) => Receiver.feed rx' f' bs
    | (rx', f', .lengthError) => (rx', f', .lengthError)
    | (rx', f', .complete g) => (rx', f', .complete g)

/-- A frame as R1 has it: at most 56 payload bytes, as many as the length says. -/
def Frame.whole (f : Frame) : Prop := f.len ≤ 56 ∧ f.payload.length = f.len

/-! ## Invariants -/

/-- The ranges of Table 2-1 (R13). -/
def LineConfig.inRanges (c : LineConfig) : Prop :=
  1 ≤ c.divisor ∧ c.divisor ≤ 4095 ∧ 1 ≤ c.stopBits ∧ c.stopBits ≤ 2 ∧
  2 ≤ c.gapLimit ∧ c.gapLimit ≤ 31 ∧ c.turnaround ≤ 15 ∧ 1 ≤ c.quota ∧ c.quota ≤ 120 ∧
  5 ≤ c.confirmTimeout ∧ c.confirmTimeout ≤ 1000 ∧ c.retryLimit ≤ 7 ∧
  2 ≤ c.replyWindow ∧ c.replyWindow ≤ 255 ∧ 1 ≤ c.missLimit ∧ c.missLimit ≤ 7 ∧
  1 ≤ c.burstLimit ∧ c.burstLimit ≤ 15 ∧ 1 ≤ c.recheckCycles ∧ c.recheckCycles ≤ 15 ∧
  c.pollPause ≤ 255

/-- Every setting lies in its range: the configuration records (R13), the relay address (R4), the
reserve and water marks (R44, R48), the lease setting (R138), and the notice settings (R165). -/
def SettingsInRange (s : State) : Prop :=
  (∀ k, (s.line k).config.inRanges) ∧
  s.route.relayAddr ≠ 0#16 ∧ s.route.relayAddr ≠ 0xFFFF#16 ∧
  1 ≤ s.pool.reserve ∧ s.pool.reserve ≤ 8 ∧
  s.pool.reserve + 1 ≤ s.pool.lowMark ∧ s.pool.lowMark ≤ 64 ∧
  s.pool.lowMark < s.pool.highMark ∧ s.pool.highMark ≤ 96 ∧
  5 ≤ s.agent.leaseSetting ∧ s.agent.leaseSetting ≤ 255 ∧
  s.notice.address ≠ 0xFFFF#16 ∧ 100 ≤ s.notice.interval ∧ s.notice.interval ≤ 5000

/-- At least one line whose mode is not OFF accepts management (R153), outside reset. -/
def KeepsWayIn (s : State) : Prop :=
  s.rstnLow = false → ∃ k, (s.line k).config.mode ≠ .off ∧ (s.line k).config.mgmtAccepted = true

/-- While the edit claim is FREE the shadow table equals the active table (R74), no lease runs and the
cache is empty; while it is HELD the lease runs (R138, R141, R142, R143). -/
def ClaimConsistent (s : State) : Prop :=
  (s.agent.claim = none →
    s.route.shadow = s.route.active ∧ s.agent.lease = none ∧ s.agent.cache = none) ∧
  (s.agent.claim ≠ none → s.agent.lease ≠ none)

/-- Every valid entry of the active table passes the commit check (R77). -/
def ActiveTableChecked (s : State) : Prop :=
  ∀ e ∈ s.route.active.toList, e.valid = true →
    e.low ≤ e.high ∧
    (e.rewrite = .shift → e.base.toNat + (e.high.toNat - e.low.toNat) ≤ 0xFFFF)

/-- Every bounded list keeps its bound: normal queues of at most 120 with quotas of at most 120 (R78),
urgent queues of 4 (R80), pending-confirmation lists of 4 (R106), duplicate memos of 8 (R104), poll
lists of 16 (R110), the agent queue of 4 (R131). -/
def QueuesBounded (s : State) : Prop :=
  (∀ k, (s.line k).config.quota ≤ 120 ∧ (s.line k).normalQ.length ≤ 120 ∧
    (s.line k).urgentQ.length ≤ 4 ∧ (s.line k).pendingConf.length ≤ 4 ∧
    (s.line k).memo.length ≤ 8 ∧ (s.line k).pollList.length ≤ 16) ∧
  s.agent.queue.length ≤ 4

/-- No two entries of a duplicate memo hold one source (R104), and no poll list holds one node address
twice (R110). -/
def EntriesUnique (s : State) : Prop :=
  ∀ k, ((s.line k).memo.map MemoEntry.src).Nodup ∧ ((s.line k).pollList.map PollEntry.node).Nodup

/-- What a line that is OFF holds: nothing of its line engine, no reservation, no timer (R19). -/
def LineRec.holdsNothing (l : LineRec) : Prop :=
  l.rx.phase = .stopped ∧ l.rx.gap = none ∧ l.rx.quiet = none ∧ l.turnaround = none ∧
  l.faultTimer = none ∧ l.recovery = none ∧ l.reservation = none ∧ l.tp = none ∧
  l.normalQ = [] ∧ l.urgentQ = [] ∧ l.await = .empty ∧ l.confirmTimer = none ∧
  l.pendingConf = [] ∧ l.memo = [] ∧ l.window = .closed ∧ l.windowTimer = none ∧
  l.pauseTimer = none

/-- A line whose mode is OFF is in line state OFF, and only such a line; it holds nothing and does not
wait for a reservation (R19). -/
def OffLinesEmpty (s : State) : Prop :=
  ∀ k, ((s.line k).config.mode = .off ↔ (s.line k).state = .off) ∧
    ((s.line k).state = .off → (s.line k).holdsNothing ∧ LineSet.has s.pool.waiters k = false)

/-- A reply window, or a POLL being sent, only on a line that is ACTIVE in mode POLLED, and the window's
timer runs exactly while the window is OPEN (R118). -/
def WindowsWhilePolling (s : State) : Prop :=
  ∀ k, ((s.line k).window ≠ .closed ∨ (∃ f, (s.line k).tp = some (.poll f)) →
      (s.line k).state = .active ∧ (s.line k).config.mode = .polled) ∧
    ((s.line k).windowTimer ≠ none ↔ ∃ o n, (s.line k).window = .opened o n)

/-- The notice unit between events: no slot is being built in, the interval timer runs exactly while a
notice is outstanding (R168, R169, R170), a record is pending exactly when its count is above 0 (R163,
R164, R169), and the listed kinds are distinct and their counts not above the records' (R169). -/
def NoticesConsistent (s : State) : Prop :=
  s.notice.building = none ∧
  (s.notice.state = .outstanding ↔ s.notice.timer ≠ none) ∧
  (∀ q : NoticeKind, (s.notice.records.get q.code).pending = true ↔
    (s.notice.records.get q.code).count ≠ 0#8) ∧
  (s.notice.listed.map Prod.fst).Nodup ∧
  (∀ p ∈ s.notice.listed, p.2 ≤ (s.notice.records.get p.1.code).count)

/-- The pool leaves no request unserved that it can serve: lines wait only while the free list holds no
more slots than the reserve (R45), and a notice request waits only while the free list is empty and the
emission condition holds (R47, R166). -/
def PoolServes (s : State) : Prop :=
  (s.pool.waiters ≠ 0#8 → s.pool.free.length ≤ s.pool.reserve) ∧
  (s.pool.noticeWaiting = true → s.pool.free = [] ∧ s.notice.emits = true)

/-- The slot a transmit position refers to, if any: a CONF or POLL occupies none (R40). -/
def TxItem.slot? : TxItem → Option SlotIx
  | .conf _ | .poll _ => none
  | .urgent i | .normal i | .resend i => some i

/-- The references to slots a line holds, in Table 3-2's places (R40). -/
def LineRec.refs (l : LineRec) : List SlotIx :=
  l.reservation.toList ++ l.normalQ ++ l.urgentQ ++ (l.tp.bind TxItem.slot?).toList ++
    l.await.slot?.toList

/-- Every reference to a slot that the part holds: the lines', the agent queue's, the current command's
and the notice unit's building reference (R40). -/
def State.refs (s : State) : List SlotIx :=
  allLines.flatMap (fun k => (s.line k).refs) ++ s.agent.queue ++ s.agent.current.toList ++
    s.notice.building.toList

/-- Every holder count is the number of references to the slot, and the free list lists each slot whose
count is 0 once and no other (R40, R42). -/
def ReferencesCounted (s : State) : Prop :=
  (∀ i, (s.slot i).holders = s.refs.count i) ∧
  (∀ i, s.pool.free.count i = if (s.slot i).holders = 0 then 1 else 0)

/-- No place that is filled can be filled again: a line that waits for a reservation holds none (R45),
an IDLE agent has no current command (R131), a frame in its first transmission leaves the await record
empty (R82), and a retransmission goes with an await record that is RESENDING it or was emptied by a
matching CONF (R95, R98). -/
def PlacesExclusive (s : State) : Prop :=
  (∀ k, LineSet.has s.pool.waiters k = true → (s.line k).reservation = none) ∧
  (s.agent.state = .idle → s.agent.current = none) ∧
  (∀ k i, (s.line k).tp = some (.normal i) → (s.line k).await = .empty) ∧
  (∀ k i, (s.line k).tp = some (.resend i) →
    (s.line k).await = .resending i ∨ (s.line k).await = .empty) ∧
  (∀ k i, (s.line k).await = .resending i → (s.line k).tp = some (.resend i))

end Sys2Proof.Machine
end

