-- ==== Sys2Proof/Certificates/Slice0/Obligations.lean ====
section
/-! DEFINITION. The statements for the provers. `Follows u t` (Safety.lean) says that `t` is `u` with the
consequences of the event taken: selections, turns, the agent's next command, the pool state (log
entry 5). -/

open Sys2Proof Sys2Proof.Machine

/-! ## The block as a whole -/

/-- Model's choice (log entry 7 for idling): a step carries out the command at the front of the queue with
the queue's rest, and idles on an empty queue. -/
def Obligations.StepRunsFrontCommand : Prop :=
  (∀ (s : State) (c : Instr) (rest : List Instr),
    s.pending = c :: rest → step s = exec c { s with pending := rest }) ∧
  (∀ s : State, s.pending = [] → step s = .next s)

/-- Every command completes in every state, and leaves the queue of waiting commands alone. That a command
whose event cannot take place changes nothing is the model's choice (log entry 4). -/
def Obligations.EveryCommandCompletes : Prop :=
  ∀ (c : Instr) (s : State), ∃ t, exec c s = .next t ∧ t.pending = s.pending

/-- RSTN_RELEASE gives the power-on state from any state: every line port and line engine with every timer
stopped, the slot records, the pool, both route tables, the agent and the notice unit (R173, R174, R14, R39,
R54, R57, R58, R131, R138, R171). The fields whose power-on values are the model's choices (log entries 2, 11
and 15) are left out here; `PowerOnMeetsInvariants` gives the whole state. -/
def Obligations.RstnReleaseGivesPowerOn : Prop :=
  ∀ (s : State) (addr : BitVec 4) (msel : BitVec 3),
    ∃ t, exec (.rstnRelease addr msel) s = .next t ∧ t.pending = s.pending ∧ t.rstnLow = false ∧
      (t.line msel.toFin).config.mode = .direct ∧ (t.line msel.toFin).config.mgmtAccepted = true ∧
      (t.line msel.toFin).state = .active ∧ (t.line msel.toFin).rx.phase = .hunt ∧
      (t.line msel.toFin).rx.brk = false ∧ (t.line msel.toFin).reservation = some 0 ∧
      (∀ k, k ≠ msel.toFin → (t.line k).config.mode = .off ∧ (t.line k).config.mgmtAccepted = false ∧
        (t.line k).state = .off ∧ (t.line k).rx.phase = .stopped ∧ (t.line k).reservation = none) ∧
      (∀ k, (t.line k).config.divisor = 120 ∧ (t.line k).config.parity = .none ∧
        (t.line k).config.stopBits = 1 ∧ (t.line k).config.gapLimit = 4 ∧
        (t.line k).config.turnaround = 2 ∧ (t.line k).config.quota = 24 ∧
        (t.line k).config.confirmTimeout = 50 ∧ (t.line k).config.retryLimit = 3 ∧
        (t.line k).config.replyWindow = 20 ∧ (t.line k).config.missLimit = 3 ∧
        (t.line k).config.burstLimit = 4 ∧ (t.line k).config.recheckCycles = 8 ∧
        (t.line k).config.pollPause = 0) ∧
      (∀ k, (t.line k).normalQ = [] ∧ (t.line k).urgentQ = [] ∧ (t.line k).tp = none ∧
        (t.line k).await = .empty ∧ (t.line k).pendingConf = [] ∧ (t.line k).memo = [] ∧
        (t.line k).pollList = [] ∧ (t.line k).pollPos = 0 ∧ (t.line k).cycle = 0#4 ∧
        (t.line k).burst = 0 ∧ (t.line k).window = .closed ∧
        (∀ c, (t.line k).counter c = 0#16)) ∧
      (∀ k, (t.line k).rx.brk = false ∧ (t.line k).rx.inChar = false ∧ (t.line k).rx.gap = none ∧
        (t.line k).rx.quiet = none ∧ (t.line k).turnaround = none ∧ (t.line k).faultTimer = none ∧
        (t.line k).recovery = none ∧ (t.line k).confirmTimer = none ∧
        (t.line k).windowTimer = none ∧ (t.line k).pauseTimer = none) ∧
      (∀ i, (t.frame i).dest = 0#16 ∧ (t.frame i).src = 0#16 ∧ (t.frame i).kind = .data ∧
        (t.frame i).confirm = false ∧ (t.frame i).seq = 0#4 ∧ (t.frame i).len = 0 ∧
        (t.slot i).retry = 0) ∧
      (∀ i, i ≠ 0 → (t.slot i).arrival = none) ∧
      (∀ n : Fin 64, t.route.active.get n =
          { valid := false, low := 0#16, high := 0#16, target := .discard, rewrite := .keep,
            base := 0#16, arrivals := 0#8, hairpin := false } ∧
        t.route.shadow.get n = t.route.active.get n) ∧
      t.straps = { addr := addr, msel := msel } ∧ t.pool.noticeWaiting = false ∧
      t.agent.restartReply = none ∧ t.notice.building = none ∧
      (t.slot 0).holders = 1 ∧ (t.slot 0).arrival = some msel.toFin ∧
      (∀ i, i ≠ 0 → (t.slot i).holders = 0) ∧
      t.pool.free = (List.finRange 128).tail ∧ t.pool.state = .normal ∧ t.pool.waiters = 0#8 ∧
      t.pool.lastGranted = msel.toFin ∧ t.pool.reserve = 2 ∧ t.pool.lowMark = 12 ∧
      t.pool.highMark = 24 ∧
      t.route.relayAddr = 0xFE00#16 + addr.setWidth 16 ∧ t.route.generation = 0#16 ∧
      t.route.defaultAction = .discard ∧ t.route.broadcastSet = 0#8 ∧
      (∀ c, t.route.counter c = 0#16) ∧
      t.agent.state = .idle ∧ t.agent.queue = [] ∧ t.agent.current = none ∧ t.agent.claim = none ∧
      t.agent.lease = none ∧ t.agent.leaseSetting = 60 ∧ t.agent.cache = none ∧
      t.notice.records.get 0 = { pending := true, count := 1#8, line := none, value := none } ∧
      (∀ q : NoticeKind, q ≠ .restarted → t.notice.records.get q.code = NoticeRecord.clear) ∧
      t.notice.mask = 0xFF#8 ∧ t.notice.address = 0#16 ∧ t.notice.interval = 1000 ∧
      t.notice.state = .idle ∧ t.notice.seq = 0#4 ∧ t.notice.listed = [] ∧ t.notice.timer = none ∧
      (∀ k, t.de k = decide (k = msel.toFin)) ∧ t.fltLow = false

/-- RSTN_ASSERT silences the part, and while RSTn is low no command but those of RSTn does anything (R173).
What the fields hold meanwhile is the model's choice (log entry 3). -/
def Obligations.RstnLowSilencesPart : Prop :=
  (∀ s : State, ∃ t, exec .rstnAssert s = .next t ∧ t.pending = s.pending ∧ t.rstnLow = true ∧
    t.fltLow = false ∧ t.agent.lease = none ∧ t.notice.timer = none ∧
    ∀ k, t.de k = false ∧ t.txLevels k = [] ∧ (t.line k).listening = false ∧
      (t.line k).rx.gap = none ∧ (t.line k).rx.quiet = none ∧ (t.line k).turnaround = none ∧
      (t.line k).faultTimer = none ∧ (t.line k).recovery = none ∧ (t.line k).confirmTimer = none ∧
      (t.line k).windowTimer = none ∧ (t.line k).pauseTimer = none) ∧
  (∀ (s : State) (c : Instr), s.rstnLow = true → c ≠ .rstnAssert →
    (∀ a m, c ≠ .rstnRelease a m) → exec c s = .next s)

/-- RSTN_RELEASE answers the power-on state of the straps, the queue of commands kept; every power-on state,
and so `State.reset`, meets the invariants. The straps of `State.reset` are the model's choice (log entry 1),
as are some power-on values (log entries 2, 11 and 15). -/
def Obligations.PowerOnMeetsInvariants : Prop :=
  (∀ (s : State) (addr : BitVec 4) (msel : BitVec 3),
    exec (.rstnRelease addr msel) s =
      .next { State.powerOn { addr := addr, msel := msel } with pending := s.pending }) ∧
  (∀ p : Straps, SettingsInRange (State.powerOn p) ∧ KeepsWayIn (State.powerOn p) ∧
    ClaimConsistent (State.powerOn p) ∧ ActiveTableChecked (State.powerOn p) ∧
    QueuesBounded (State.powerOn p) ∧ EntriesUnique (State.powerOn p) ∧
    OffLinesEmpty (State.powerOn p) ∧ WindowsWhilePolling (State.powerOn p) ∧
    NoticesConsistent (State.powerOn p) ∧ PoolServes (State.powerOn p) ∧
    ReferencesCounted (State.powerOn p) ∧ PlacesExclusive (State.powerOn p) ∧
    Settled (State.powerOn p)) ∧
  State.reset = State.powerOn { addr := 0#4, msel := 0#3 }

/-! ## Invariants of every step -/

/-- Every setting stays in its range (R4, R13, R44, R48, R138, R165). -/
def Obligations.SettingsStayInRange : Prop :=
  ∀ s t : State, SettingsInRange s → step s = .next t → SettingsInRange t

/-- Some line whose mode is not OFF always accepts management (R153). -/
def Obligations.ManagementKeepsWayIn : Prop :=
  ∀ s t : State, KeepsWayIn s → step s = .next t → KeepsWayIn t

/-- While the claim is FREE the shadow table equals the active table, no lease runs and the cache is empty;
while it is HELD the lease runs (R74, R138, R141, R142, R143). -/
def Obligations.FreeClaimShadowIsActive : Prop :=
  ∀ s t : State, ClaimConsistent s → step s = .next t → ClaimConsistent t

/-- Every valid entry of the active table keeps low at most high and a SHIFT within range (R77). -/
def Obligations.ActiveTableStaysChecked : Prop :=
  ∀ s t : State, ActiveTableChecked s → step s = .next t → ActiveTableChecked t

/-- Every bounded list keeps its bound (R78, R80, R104, R106, R110, R131). No memo holds one source twice
and no poll list one node twice (R104, R110). -/
def Obligations.ListsStayBoundedAndUnique : Prop :=
  (∀ s t : State, QueuesBounded s → step s = .next t → QueuesBounded t) ∧
  (∀ s t : State, EntriesUnique s → step s = .next t → EntriesUnique t)

/-- A line is OFF exactly when its mode is OFF, and holds nothing then (R19). -/
def Obligations.OffLinesHoldNothing : Prop :=
  ∀ s t : State, OffLinesEmpty s → step s = .next t → OffLinesEmpty t

/-- The window record is CLOSED after power-on, after a warm restart and whenever the line is not ACTIVE in
mode POLLED, and a flush makes it CLOSED without an outcome: no POLL_MISS and no presence lost (R118). -/
def Obligations.WindowsOnlyWhilePolling : Prop :=
  (∀ (p : Straps) (k : Line), ((State.powerOn p).line k).window = .closed) ∧
  (∀ (s : State) (k : Line), WindowsWhilePolling s → ((warmRestart s).line k).window = .closed) ∧
  (∀ s t : State, WindowsWhilePolling s → step s = .next t → WindowsWhilePolling t) ∧
  (∀ (s : State) (k : Line) (polled : Bool), ((flushLine k polled s).line k).window = .closed ∧
    ((flushLine k polled s).line k).counter .pollMiss = (s.line k).counter .pollMiss ∧
    ((flushLine k polled s).line k).pollList =
      if polled then (s.line k).pollList.map (fun e => { e with presence := .present, miss := 0 })
      else (s.line k).pollList)

/-- The notice unit stays consistent: timer and state, pending fields and counts, listed set (R163, R164,
R168, R169, R170). -/
def Obligations.NoticesStayConsistent : Prop :=
  ∀ s t : State, NoticesConsistent s → step s = .next t → NoticesConsistent t

/-- No event leaves undone what it makes possible. No line waits for a reservation the pool could grant, and no
notice request for a slot it could have (R45, R47, R166). With settings in range a step from a settled state
leaves a settled state (`Settled`, Safety.lean): every line that may transmit has begun to, or has nothing to send
and nothing to poll (R82, R83, R113 to R117), an IDLE agent has taken its next command (R132), and the pool state
is the one the length of the free list asks for (R48). That a turn which only ends a pass and starts the poll
pause is followed by another in the same event, where the burst limit held normal frames back, is the model's
choice (log entry 5). -/
def Obligations.PoolLeavesNoneUnserved : Prop :=
  (∀ s t : State, PoolServes s → step s = .next t → PoolServes t) ∧
  (∀ s t : State, SettingsInRange s → Settled s → step s = .next t → Settled t)

/-- Every holder count stays the number of references to its slot, and the free list stays the slots whose
count is 0 (R40), in every state whose places exclude each other, which they go on doing (R45, R82, R98,
R131). -/
def Obligations.ReferencesStayCounted : Prop :=
  ∀ s t : State, ReferencesCounted s → PlacesExclusive s → OffLinesEmpty s → NoticesConsistent s →
    step s = .next t → ReferencesCounted t ∧ PlacesExclusive t

/-- The active table is read by every lookup, the shadow by none. The active table and the generation are
changed by no command but ROUTE-COMMIT and a power-on reset; at power-on every entry of both tables is empty;
a warm restart keeps the active table and reloads the shadow from it (R57). -/
def Obligations.ActiveTableOnlyByCommit : Prop :=
  (∀ (p : Straps) (n : Fin 64),
    (State.powerOn p).route.active.get n =
      { valid := false, low := 0#16, high := 0#16, target := .discard, rewrite := .keep,
        base := 0#16, arrivals := 0#8, hairpin := false } ∧
    (State.powerOn p).route.shadow.get n = (State.powerOn p).route.active.get n ∧
    (State.powerOn p).route.generation = 0#16) ∧
  (∀ s : State, (warmRestart s).route.active = s.route.active ∧
    (warmRestart s).route.generation = s.route.generation ∧
    (warmRestart s).route.shadow = s.route.active) ∧
  (∀ (c : Instr) (s t : State), c ≠ .routeCommit → c ≠ .rstnAssert → (∀ a m, c ≠ .rstnRelease a m) →
    exec c s = .next t →
    t.route.active = s.route.active ∧ t.route.generation = s.route.generation) ∧
  (∀ (c : Cmd) (s : State), wordAt c.ops 0 = s.route.generation →
    (∀ n : Fin 64, (s.route.shadow.get n).commitOk = true) →
    (routeCommitBody c s).1.route.active = s.route.shadow) ∧
  (∀ (r : RouteUnit) (shadow : RouteTable) (k : Line) (f : Frame),
    decideReceived { r with shadow := shadow } k f = decideReceived r k f ∧
    decideRelay { r with shadow := shadow } f.dest = decideRelay r f.dest)

/-! ## Frames and characters -/

/-- The bytes of a whole frame as it is sent, given to a receiver that has taken the lead, rebuild the frame
in the slot whatever the slot held before; the check is found good exactly when the two check bytes are the
frame's check; and a frame takes 9 characters more than its length (R2, R26, R179). -/
def Obligations.SentFrameIsRebuilt : Prop :=
  ∀ (f old : Frame) (rx : Receiver) (hi lo : Byte), f.whole →
    rx.phase = .head 0 → rx.crc = 0xFFFF#16 →
    (rx.feed old (f.headerBytes ++ f.payload ++ [hi, lo])).2 =
      (f, .complete (decide (word16 hi lo = f.check))) ∧
    f.wireBytes = 0xA7#8 :: (f.headerBytes ++ f.payload ++ [hiByte f.check, loByte f.check]) ∧
    f.wireBytes.length = 9 + f.len

/-- The check (R11): the register begins at FFFFh, each bit shifts it and combines it with 1021h when the
bit shifted out differs from the data bit; over header, payload and two check bytes it ends at 0000h exactly
when those bytes are the check; and the two published values. -/
def Obligations.CheckFindsCheckBytes : Prop :=
  (∀ (r : BitVec 16) (b : Bool),
    crcBit r b = if r.msb = b then r <<< 1 else (r <<< 1) ^^^ 0x1021#16) ∧
  (∀ (r : BitVec 16) (x : Byte), crcByte r x =
    crcBit (crcBit (crcBit (crcBit (crcBit (crcBit (crcBit (crcBit r
      (x.getLsbD 7)) (x.getLsbD 6)) (x.getLsbD 5)) (x.getLsbD 4)) (x.getLsbD 3)) (x.getLsbD 2))
      (x.getLsbD 1)) (x.getLsbD 0)) ∧
  (∀ (bs : List Byte) (hi lo : Byte),
    crcRun 0xFFFF#16 (bs ++ [hi, lo]) = 0#16 ↔ word16 hi lo = crcOf bs) ∧
  (∀ f : Frame, f.check = crcRun 0xFFFF#16 (f.headerBytes ++ f.payload)) ∧
  crcOf [] = 0xFFFF#16 ∧
  crcOf [0x31#8, 0x32#8, 0x33#8, 0x34#8, 0x35#8, 0x36#8, 0x37#8, 0x38#8, 0x39#8] = 0x29B1#16

/-- The characters of a transmission (R16, R18): a start bit, the data bits least significant first, a
parity bit that makes the ones even or odd, and stop bits at mark, in 10 to 12 bit times; and the classes of
a received character (R17). -/
def Obligations.CharactersOnTheLine : Prop :=
  (∀ (c : LineConfig) (b : Byte), (charLevels c b).length = c.charBits) ∧
  (∀ c : LineConfig, c.charBits = 9 + (if c.parity = .none then 0 else 1) + c.stopBits ∧
    (c.stopBits = 1 ∨ c.stopBits = 2 → 10 ≤ c.charBits ∧ c.charBits ≤ 12)) ∧
  (∀ (c : LineConfig) (b : Byte) (p : Bool), parityBit c.parity b = some p →
    (charLevels c b)[9]? = some (if p then .mark else .space)) ∧
  (∀ (c : LineConfig) (b : Byte), (charLevels c b)[0]? = some .space) ∧
  (∀ (c : LineConfig) (b : Byte) (n : Nat), n < 8 →
    (charLevels c b)[n + 1]? = some (if b.getLsbD n then .mark else .space)) ∧
  (∀ (c : LineConfig) (b : Byte) (n : Nat), 9 + (if c.parity = .none then 0 else 1) ≤ n →
    n < c.charBits → (charLevels c b)[n]? = some .mark) ∧
  (∀ b : Byte, parityBit .none b = none) ∧
  (∀ b : Byte, ∃ p, parityBit .even b = some p ∧ (onesCount b + p.toNat) % 2 = 0) ∧
  (∀ b : Byte, ∃ p, parityBit .odd b = some p ∧ (onesCount b + p.toNat) % 2 = 1) ∧
  (∀ (s : State) (k : Line) (f : Frame), s.rstnLow = false → s.txFrame k = some f → f.whole →
    (s.txLevels k).length = (9 + f.len) * (s.line k).config.charBits) ∧
  (∀ (p : Parity) (c : RxChar),
    (classify p c = .brk ↔ c.stop = .space ∧ c.data = 0#8) ∧
    (classify p c = .framing ↔ c.stop = .space ∧ c.data ≠ 0#8) ∧
    (classify p c = .parity ↔ c.stop = .mark ∧ ∃ b, parityBit p c.data = some b ∧ c.parity ≠ b) ∧
    (classify p c = .good ↔ c.stop = .mark ∧ ∀ b, parityBit p c.data = some b → c.parity = b))

/-- On a DIRECT line DE is asserted exactly while the line is ACTIVE (R34), on a POLLED line exactly while an
ACTIVE line sends (R35); on a line that is OFF or in FAULT it is negated (R21, R22, R34). FLT is pulled low exactly while
a line is in FAULT and RSTn is high, is released at power-on, and is released by a warm restart (R24). -/
def Obligations.OutputsFollowLineStates : Prop :=
  (∀ (s : State) (k : Line), s.rstnLow = false → (s.line k).config.mode = .direct →
     (s.de k = true ↔ (s.line k).state = .active)) ∧
  (∀ (s : State) (k : Line), s.rstnLow = false → (s.line k).config.mode = .polled →
     (s.de k = true ↔ (s.line k).state = .active ∧ (s.line k).tp ≠ none)) ∧
  (∀ (s : State) (k : Line), (s.line k).state = .off ∨ (s.line k).state = .fault →
     s.de k = false) ∧
  ((∀ s : State, s.fltLow = true ↔ s.rstnLow = false ∧ ∃ k, (s.line k).state = .fault) ∧
   (∀ p : Straps, (State.powerOn p).fltLow = false) ∧
   (∀ s : State, OffLinesEmpty s → (warmRestart s).fltLow = false ∧
     ∀ k, (s.line k).state = .fault → ((warmRestart s).line k).state = .active))

/-! ## The receiver -/

/-- START_BIT: a true start bit puts the receiver inside a character and stops the gap and quiet timers; a
false one is ignored (R17, R27, R30). -/
def Obligations.StartBitStopsTimers : Prop :=
  ∀ (s : State) (k : Line), s.rstnLow = false → (s.line k).listening = true →
    ((s.line k).rx.inChar = false → ∃ t, exec (.startBit k .space) s = .next t ∧
      Follows (s.setLine k
        { s.line k with
          rxd := .space
          rx := { (s.line k).rx with inChar := true, gap := none, quiet := none } }) t) ∧
    exec (.startBit k .mark) s = .next s

/-- CHARACTER_RECEIVED in HUNT: a good A7h is a lead, which begins a frame in the reservation or, without
one, enters SKIP, and ends an OPEN reply window; any other character but a break character is ignored (R25,
R119). -/
def Obligations.HuntTakesOnlyTheLead : Prop :=
  ∀ (s : State) (k : Line) (c : RxChar), s.rstnLow = false → (s.line k).listening = true →
    (s.line k).rx.phase = .hunt →
    let l := (s.line k).afterChar c.stop
    let lead := classify (s.line k).config.parity c = .good ∧ c.data = 0xA7#8
    let led : LineRec :=
      match l.window with
      | .opened o n => { l with window := .replying o n, windowTimer := none }
      | .replying _ _ => l
      | .closed => l
    (¬ lead → classify (s.line k).config.parity c ≠ .brk →
      ∃ t, exec (.characterReceived k c) s = .next t ∧ Follows (s.setLine k l) t) ∧
    (lead → (s.line k).reservation ≠ none →
      ∃ t, exec (.characterReceived k c) s = .next t ∧
        Follows (s.setLine k
          { led with
            rx := { led.rx with
                    phase := .head 0, crc := 0xFFFF#16, gap := some l.config.gapLimit } }) t) ∧
    (lead → (s.line k).reservation = none →
      ∃ t, exec (.characterReceived k c) s = .next t ∧
        Follows (s.setLine k
          { led with rx := { led.rx with phase := .skip, quiet := some l.config.gapLimit } }) t)

/-- CHARACTER_RECEIVED, a good character inside a frame: it is stored in the reservation's slot, the check
runs over it, the gap timer starts again, and the receiver goes from HEAD to BODY or TRAIL by the length
byte, and from BODY to TRAIL after the last payload byte (R26, R27). -/
def Obligations.GoodCharacterIsStored : Prop :=
  ∀ (s : State) (k : Line) (c : RxChar) (i : SlotIx), s.rstnLow = false →
    (s.line k).listening = true → classify (s.line k).config.parity c = .good →
    (s.line k).reservation = some i →
    let l := (s.line k).afterChar c.stop
    let stored (p : RxPhase) (f : Frame → Frame) : State :=
      (s.setLine k
        { l with
          rx := { l.rx with
                  phase := p, crc := crcByte l.rx.crc c.data, gap := some l.config.gapLimit } }).modFrame i f
    let answers (u : State) : Prop := ∃ t, exec (.characterReceived k c) s = .next t ∧ Follows u t
    ((s.line k).rx.phase = .head 0 →
      answers (stored (.head 1) (fun f => { f with dest := word16 c.data (loByte f.dest) }))) ∧
    ((s.line k).rx.phase = .head 1 →
      answers (stored (.head 2) (fun f => { f with dest := word16 (hiByte f.dest) c.data }))) ∧
    ((s.line k).rx.phase = .head 2 →
      answers (stored (.head 3) (fun f => { f with src := word16 c.data (loByte f.src) }))) ∧
    ((s.line k).rx.phase = .head 3 →
      answers (stored (.head 4) (fun f => { f with src := word16 (hiByte f.src) c.data }))) ∧
    ((s.line k).rx.phase = .head 4 →
      answers (stored (.head 5) (fun f =>
        { f with
          kind := Kind.ofCode (c.data.extractLsb' 5 3)
          confirm := c.data.getLsbD 4
          seq := c.data.extractLsb' 0 4 }))) ∧
    ((s.line k).rx.phase = .head 5 → c.data.toNat = 0 →
      answers (stored (.trail 0) (fun f => { f with len := 0, payload := [] }))) ∧
    ((s.line k).rx.phase = .head 5 → 0 < c.data.toNat → c.data.toNat ≤ 56 →
      answers (stored (.body 0) (fun f => { f with len := c.data.toNat, payload := [] }))) ∧
    (∀ n, (s.line k).rx.phase = .body n →
      answers (stored (if n + 1 < (s.frame i).len then .body (n + 1) else .trail 0)
        (fun f => { f with payload := f.payload ++ [c.data] }))) ∧
    ((s.line k).rx.phase = .trail 0 → answers (stored (.trail 1) (fun f => f)))

/-- A frame is abandoned for a PARITY, FRAMING, LENGTH or GAP error (CHARACTER_RECEIVED, GAP_TIMER_EXPIRY):
the receiver returns to HUNT with its timers stopped, the reservation is kept, one counter is incremented,
and inside a reply window it is a damaged reply (R26, R27, R29, R123). -/
def Obligations.ReceiveErrorAbandonsFrame : Prop :=
  ∀ (s : State) (k : Line), s.rstnLow = false →
    (∀ c : RxChar, (s.line k).listening = true → (s.line k).rx.phase.inFrame = true →
      (classify (s.line k).config.parity c = .framing ∨ classify (s.line k).config.parity c = .parity) →
      ∃ t, exec (.characterReceived k c) s = .next t ∧
        Follows (damagedReply k (countLine k .rxChar
          (s.setLine k ((s.line k).afterChar c.stop).backInHunt))) t) ∧
    (∀ c : RxChar, (s.line k).listening = true → (s.line k).rx.phase = .head 5 →
      (s.line k).reservation ≠ none → classify (s.line k).config.parity c = .good →
      56 < c.data.toNat →
      ∃ t, exec (.characterReceived k c) s = .next t ∧
        Follows (damagedReply k (countLine k .rxLength
          (s.setLine k ((s.line k).afterChar c.stop).backInHunt))) t) ∧
    ((s.line k).state = .active → (s.line k).rx.phase.inFrame = true → (s.line k).rx.gap ≠ none →
      ∃ t, exec (.gapTimerExpiry k) s = .next t ∧
        Follows (damagedReply k (countLine k .rxGap (s.setLine k (s.line k).backInHunt))) t)

/-- SKIP (R30): a character but a break character only starts the quiet timer again; at the quiet timer's
expiry (QUIET_TIMER_EXPIRY) RX_NOSLOT is counted, the receiver returns to HUNT, and inside a window the lost
frame is a damaged reply; in a break condition the receiver goes on waiting for the mark (log entry 13). -/
def Obligations.SkipEndsAtQuiet : Prop :=
  ∀ (s : State) (k : Line), s.rstnLow = false → (s.line k).rx.phase = .skip →
    (∀ c : RxChar, (s.line k).listening = true → classify (s.line k).config.parity c ≠ .brk →
      ∃ t, exec (.characterReceived k c) s = .next t ∧
        Follows (s.setLine k ((s.line k).afterChar c.stop)) t) ∧
    ((s.line k).state = .active → (s.line k).rx.quiet ≠ none → (s.line k).rx.brk = false →
      ∃ t, exec (.quietTimerExpiry k) s = .next t ∧
        Follows (damagedReply k (countLine k .rxNoslot (s.setLine k (s.line k).backInHunt))) t) ∧
    ((s.line k).state = .active → (s.line k).rx.quiet ≠ none → (s.line k).rx.brk = true →
      ∃ t, exec (.quietTimerExpiry k) s = .next t ∧
        Follows (s.setLine k { s.line k with rx := { (s.line k).rx with quiet := none } }) t)

/-- A break character (R22): RX_BREAK is counted once, the fault timer of 100 ms starts and the break
condition begins; inside a frame it abandons the frame, in HUNT and SKIP nothing. -/
def Obligations.BreakCharacterStartsFaultTimer : Prop :=
  ∀ (s : State) (k : Line) (c : RxChar), s.rstnLow = false → (s.line k).listening = true →
    c.stop = .space → c.data = 0#8 →
    let l := (s.line k).afterChar .space
    let broken : LineRec := { l with faultTimer := some 100, rx := { l.rx with brk := true } }
    ((s.line k).rx.phase = .hunt ∨ (s.line k).rx.phase = .skip →
      ∃ t, exec (.characterReceived k c) s = .next t ∧
        Follows (countLine k .rxBreak (s.setLine k broken)) t ∧
        (t.line k).counter .rxBreak = satInc ((s.line k).counter .rxBreak)) ∧
    ((s.line k).rx.phase.inFrame = true →
      ∃ t, exec (.characterReceived k c) s = .next t ∧
        Follows (damagedReply k (countLine k .rxBreak (s.setLine k broken.backInHunt))) t ∧
        (t.line k).counter .rxBreak = satInc ((s.line k).counter .rxBreak))

/-- RECEIVE_COMPLETION: the second check byte ends the frame. A check that is not good abandons it as a
CHECK error; a good one is counted RX_GOOD, returns the receiver to HUNT and hands the frame on for
decision; and the event is the reception of that character (R28; the
model's reading, log entry 14). -/
def Obligations.ReceiveCompletionAppliesCheck : Prop :=
  ∀ (s : State) (k : Line) (b : Byte) (i : SlotIx), s.rstnLow = false →
    (s.line k).listening = true → (s.line k).rx.phase = .trail 1 → (s.line k).reservation = some i →
    let l := ((s.line k).afterChar .mark).backInHunt
    let l' : LineRec := { l with rx := { l.rx with crc := crcByte l.rx.crc b } }
    (l'.rx.crc = 0#16 → ∃ t, exec (.receiveCompletion k b) s = .next t ∧
      Follows (decideFrame k i (countLine k .rxGood (s.setLine k l'))) t) ∧
    (l'.rx.crc ≠ 0#16 → ∃ t, exec (.receiveCompletion k b) s = .next t ∧
      Follows (damagedReply k (countLine k .rxCheck (s.setLine k l'))) t) ∧
    (∀ c : RxChar, c.data = b → classify (s.line k).config.parity c = .good →
      exec (.characterReceived k c) s = exec (.receiveCompletion k b) s)

/-- The validity checks (R12): what they test, and that an INVALID frame is counted once in the relay-wide
counter INVALID and discarded, inside a reply window as a damaged reply. The first look at a valid frame of
line `k` in slot `i` (R6, R7, R94, R104, R120): on a DIRECT line, and late on a POLLED one. A frame passed to
the route unit takes the line's reservation with it, a CONF is owed and the memo updated exactly when it is
admitted and wants a CONF (R28, R103, R105), and the line requests a new reservation: granted at once from a
free list above the reserve with no line waiting, else the line joins the waiters (R45). That a release within
the decision is served before that request, since R45 lets either be first, and that the CONF is owed before it,
which no rule orders, are the model's choices (log entry 5). -/
def Obligations.FrameDecisionFirstSteps : Prop :=
  ((∀ (relay : Addr) (f : Frame), f.invalid relay = true ↔
     (f.dest = 0#16 ∨ (f.src = 0#16 ∨ f.src = 0xFFFF#16) ∨
       ((f.kind = .conf ∨ f.kind = .poll ∨ f.kind = .nil) ∧ f.len ≠ 0) ∨
       (f.kind = .mgmt ∧ f.len < 2) ∨
       ((f.kind ≠ .mgmt ∧ f.kind ≠ .poll ∧ f.kind ≠ .nil) ∧ f.dest = relay))) ∧
   (∀ (s : State) (k : Line) (i : SlotIx), (s.frame i).invalid s.route.relayAddr = true →
     decideFrame k i s = damagedReply k (countRelay .invalid s) ∧
     (decideFrame k i s).route.counter .invalid = satInc (s.route.counter .invalid))) ∧
  (∀ (s : State) (k : Line) (i : SlotIx), (s.frame i).invalid s.route.relayAddr = false →
     ((s.line k).config.mode = .polled → (s.line k).window = .closed →
       decideFrame k i s = countLine k .rxLate s) ∧
     ((s.line k).config.mode = .direct →
       ((s.frame i).kind = .conf → decideFrame k i s = offerConf k (s.frame i) s) ∧
       ((s.frame i).kind = .poll ∨ (s.frame i).kind = .nil →
         decideFrame k i s = countLine k .rxLate s) ∧
       ((s.frame i).kind = .data → (s.frame i).confirm = true → (s.frame i).dest ≠ 0xFFFF#16 →
         (∃ e ∈ (s.line k).memo, e.src = (s.frame i).src ∧ e.seq = (s.frame i).seq) →
         decideFrame k i s =
           oweConf k { dest := (s.frame i).src, src := (s.frame i).dest, seq := (s.frame i).seq }
             (countLine k .rxDup s)) ∧
       ((s.frame i).kind = .data →
         ¬ ((s.frame i).confirm = true ∧ (s.frame i).dest ≠ 0xFFFF#16 ∧
           ∃ e ∈ (s.line k).memo, e.src = (s.frame i).src ∧ e.seq = (s.frame i).seq) →
         decideFrame k i s = passToRoute k i s) ∧
       ((s.frame i).kind = .mgmt ∨ (s.frame i).kind = .mreply ∨ (s.frame i).kind = .notice ∨
         (s.frame i).kind = .ret → decideFrame k i s = passToRoute k i s))) ∧
  ((∀ (s : State) (k : Line) (i : SlotIx),
     let f := s.frame i
     let r := routeReceived k i (s.setLine k { s.line k with reservation := none })
     (r.2 = true → f.kind = .data → f.confirm = true → f.dest ≠ 0xFFFF#16 →
       passToRoute k i s = requestReservation k (acceptConfirmed k f r.1)) ∧
     (¬ (r.2 = true ∧ f.kind = .data ∧ f.confirm = true ∧ f.dest ≠ 0xFFFF#16) →
       passToRoute k i s = requestReservation k r.1)) ∧
   (∀ (s : State) (k : Line) (i : SlotIx) (rest : List SlotIx), s.pool.free = i :: rest →
     s.pool.reserve < s.pool.free.length → s.pool.waiters = 0#8 →
     requestReservation k s =
       ((s.modPool (fun p => { p with free := rest, lastGranted := k })).modSlot i
         (fun x => { x with arrival := some k, holders := 1, retry := 0 })).modLine k
         (fun l => { l with reservation := some i })) ∧
   (∀ (s : State) (k : Line), s.pool.free.length ≤ s.pool.reserve ∨ s.pool.waiters ≠ 0#8 →
     requestReservation k s =
       { s with pool := { s.pool with waiters := LineSet.insert s.pool.waiters k } } ∧
     ∀ j, LineSet.has (LineSet.insert s.pool.waiters k) j =
       (decide (j = k) || LineSet.has s.pool.waiters j)))

/-- A CONF at the await record (R94, R95): it matches by source, destination and sequence, ends the await
and drops its reference; any other is counted CONF_STALE and leaves the await as it was. The acceptance of a
confirmed frame (R105, R106): the memo's entry for the source becomes the newest, another source is
appended, the oldest giving way when 8 are held; and the CONF owed is appended, or shed with CONF_SHED when
4 are owed. -/
def Obligations.ConfirmedDeliveryEnds : Prop :=
  (∀ (s : State) (k : Line) (c : Frame),
     ((s.line k).await = .empty → offerConf k c s = countLine k .confStale s) ∧
     (∀ i, ((s.line k).await = .waiting i ∨ (s.line k).await = .due i ∨
         (s.line k).await = .resending i) →
       (c.src = (s.frame i).dest ∧ c.dest = (s.frame i).src ∧ c.seq = (s.frame i).seq →
         offerConf k c s =
           releaseRef i (s.setLine k { s.line k with await := .empty, confirmTimer := none })) ∧
       (¬ (c.src = (s.frame i).dest ∧ c.dest = (s.frame i).src ∧ c.seq = (s.frame i).seq) →
         offerConf k c s = countLine k .confStale s ∧
         ((offerConf k c s).line k).await = (s.line k).await))) ∧
  ((∀ (m : List MemoEntry) (src : Addr) (q : BitVec 4),
     ((∃ e ∈ m, e.src = src) →
       memoAccept m src q = m.filter (fun e => decide (e.src ≠ src)) ++ [{ src := src, seq := q }]) ∧
     ((∀ e ∈ m, e.src ≠ src) → m.length < 8 → memoAccept m src q = m ++ [{ src := src, seq := q }]) ∧
     (∀ e m', m = e :: m' → (∀ e ∈ m, e.src ≠ src) → 8 ≤ m.length →
       memoAccept m src q = m' ++ [{ src := src, seq := q }])) ∧
   (∀ (s : State) (k : Line) (f : Frame),
     ((s.line k).pendingConf.length < 4 →
       ((acceptConfirmed k f s).line k).pendingConf =
         (s.line k).pendingConf ++ [{ dest := f.src, src := f.dest, seq := f.seq }]) ∧
     (4 ≤ (s.line k).pendingConf.length →
       ((acceptConfirmed k f s).line k).pendingConf = (s.line k).pendingConf ∧
       ((acceptConfirmed k f s).line k).counter .confShed =
         satInc ((s.line k).counter .confShed)) ∧
     ((acceptConfirmed k f s).line k).memo = memoAccept (s.line k).memo f.src f.seq))

/-- A reply inside a window (R121, R122, R123, R125): it closes the window; from the window's node it makes
the node PRESENT, from another source it is a miss in a window of origin POLL alone, and an INVALID one
changes no presence. Presence after a miss and after a good reply, with NODE-LOST and NODE-FOUND (Table 7-2,
R112), and the RETURN of a frame whose node has become ABSENT (R100). The expiry of an await record: a retry
becomes due or the frame is returned NO-CONFIRM (R97, R99), which a damaged reply in a window of origin DATA
also gives (R123). That NODE-LOST comes before the RETURN (log entry 5), and that a miss counts on past a lowered
miss limit (log entry 17), are the model's choices. The first look at a reply in a window, the await's expiry after it, and then its routing
(R125). -/
def Obligations.ReplySettlesPresence : Prop :=
  (∀ (s : State) (k : Line) (i : SlotIx) (o : Origin) (node : Addr),
     (s.line k).config.mode = .polled → (s.line k).window = .replying o node →
     ((decideFrame k i s).line k).window = .closed ∧
     ((decideFrame k i s).line k).pollList =
       (if (s.frame i).invalid s.route.relayAddr then (s.line k).pollList
        else if (s.frame i).src = node then
          (s.line k).pollList.map (fun e =>
            if e.node = node then { e with presence := .present, miss := 0 } else e)
        else if o = .poll then
          (s.line k).pollList.map (fun e =>
            if e.node = node then e.afterMiss (s.line k).config.missLimit else e)
        else (s.line k).pollList) ∧
     ∀ j, j ≠ k → ((decideFrame k i s).line j).pollList = (s.line j).pollList) ∧
  (∀ (limit : Nat) (e : PollEntry),
     (e.presence = .absent → e.afterMiss limit = e) ∧
     (e.presence ≠ .absent → (e.afterMiss limit).node = e.node ∧
       (e.afterMiss limit).miss = e.miss + 1 ∧
       ((e.afterMiss limit).presence = .absent ↔ limit ≤ e.miss + 1) ∧
       ((e.afterMiss limit).presence = .suspect ↔ e.miss + 1 < limit)) ∧
     e.reset = { e with presence := .present, miss := 0 }) ∧
  (∀ (s : State) (k : Line) (node : Addr),
     let good := s.setLine k { s.line k with
       pollList := (s.line k).pollList.map (fun e =>
         if e.node = node then { e with presence := .present, miss := 0 } else e) }
     let missed := s.setLine k { s.line k with
       pollList := (s.line k).pollList.map (fun e =>
         if e.node = node then e.afterMiss (s.line k).config.missLimit else e) }
     (∀ e, findEntry node (s.line k).pollList = some e →
       (e.presence = .absent →
         presenceGood k node s = noteEvent .nodeFound (some k) (some node) good ∧
         presenceMiss k node s = missed) ∧
       (e.presence ≠ .absent → presenceGood k node s = good) ∧
       (e.presence ≠ .absent → e.miss + 1 < (s.line k).config.missLimit →
         presenceMiss k node s = missed) ∧
       (e.presence ≠ .absent → (s.line k).config.missLimit ≤ e.miss + 1 →
         presenceMiss k node s =
           returnAbsentAwait k node (noteEvent .nodeLost (some k) (some node) missed))) ∧
     ((∀ e ∈ (s.line k).pollList, e.node ≠ node) →
       presenceGood k node s = s ∧ presenceMiss k node s = s)) ∧
  (∀ (s : State) (k : Line) (node : Addr),
     let emptied := s.setLine k { s.line k with await := .empty, confirmTimer := none }
     (∀ i, (s.line k).await = .waiting i ∨ (s.line k).await = .due i →
       ((s.frame i).dest = node → returnAbsentAwait k node s = returnFrame .absent i emptied) ∧
       ((s.frame i).dest ≠ node → returnAbsentAwait k node s = s)) ∧
     (∀ i, (s.line k).await = .empty ∨ (s.line k).await = .resending i →
       returnAbsentAwait k node s = s) ∧
     (∀ i, (s.line k).await = .waiting i →
       ((s.slot i).retry < (s.line k).config.retryLimit →
         awaitExpiry k s = countLine k .txRetry
           ((s.modSlot i (fun x => { x with retry := x.retry + 1 })).setLine k
             { s.line k with await := .due i, confirmTimer := none })) ∧
       ((s.line k).config.retryLimit ≤ (s.slot i).retry →
         awaitExpiry k s = returnFrame .noConfirm i (countLine k .txReturn emptied))) ∧
     (∀ i, (s.line k).await = .empty ∨ (s.line k).await = .due i ∨
         (s.line k).await = .resending i → awaitExpiry k s = s)) ∧
  (∀ (s : State) (k : Line) (o : Origin) (node : Addr),
     let closed := s.setLine k { s.line k with window := .closed, windowTimer := none }
     ((s.line k).window = .replying .data node → damagedReply k s = awaitExpiry k closed) ∧
     ((s.line k).window = .replying .poll node → damagedReply k s = closed) ∧
     ((s.line k).window = .closed ∨ (s.line k).window = .opened o node → damagedReply k s = s)) ∧
  (∀ (s : State) (k : Line) (i : SlotIx) (o : Origin) (node : Addr),
     (s.line k).config.mode = .polled → (s.line k).window = .replying o node →
     (s.frame i).invalid s.route.relayAddr = false →
     let closed := s.setLine k { s.line k with window := .closed, windowTimer := none }
     let p := if (s.frame i).src = node then presenceGood k node closed
       else if o = .poll then presenceMiss k node closed else closed
     let ends (u : State) : State := if o = .data then awaitExpiry k u else u
     let duplicate : Prop := (s.frame i).confirm = true ∧ (s.frame i).dest ≠ 0xFFFF#16 ∧
       ∃ e ∈ (s.line k).memo, e.src = (s.frame i).src ∧ e.seq = (s.frame i).seq
     ((s.frame i).kind = .conf → decideFrame k i s = ends (offerConf k (s.frame i) p)) ∧
     ((s.frame i).kind = .poll → decideFrame k i s = ends (countLine k .rxLate p)) ∧
     ((s.frame i).kind = .nil → decideFrame k i s = ends p) ∧
     ((s.frame i).kind = .data → duplicate →
       decideFrame k i s = ends (oweConf k
         { dest := (s.frame i).src, src := (s.frame i).dest, seq := (s.frame i).seq }
         (countLine k .rxDup p))) ∧
     ((s.frame i).kind = .data → ¬ duplicate → decideFrame k i s = passToRoute k i (ends p)) ∧
     ((s.frame i).kind = .mgmt ∨ (s.frame i).kind = .mreply ∨ (s.frame i).kind = .notice ∨
       (s.frame i).kind = .ret → decideFrame k i s = passToRoute k i (ends p)))

/-! ## The slot pool -/

/-- Releases and allocations (R42, R43): a count that falls to 0 puts the slot at the tail of the free list,
another decrement leaves the list alone; an allocation takes the head with holder count 1 and retry count 0.
The pool state (R48): NORMAL goes to LOW below the low water mark, with a POOL-LOW event whose value is the
length, and LOW to NORMAL from the high water mark on, with none. -/
def Obligations.FreeListAndPoolState : Prop :=
  ((∀ (s : State) (i : SlotIx), (s.slot i).holders = 1 →
     (dropRef i s).pool.free = s.pool.free ++ [i] ∧ ((dropRef i s).slot i).holders = 0) ∧
   (∀ (s : State) (i : SlotIx), 1 < (s.slot i).holders →
     (dropRef i s).pool.free = s.pool.free ∧
     ((dropRef i s).slot i).holders = (s.slot i).holders - 1) ∧
   (∀ (s : State) (i j : SlotIx), j ≠ i → (dropRef i s).slot j = s.slot j) ∧
   (∀ (s : State) (a : Option Line) (i : SlotIx) (rest : List SlotIx), s.pool.free = i :: rest →
     ∃ t, allocate a s = some (i, t) ∧ t.pool.free = rest ∧
       t.slot i = { s.slot i with arrival := a, holders := 1, retry := 0 } ∧
       ∀ j, j ≠ i → t.slot j = s.slot j)) ∧
  (∀ s : State,
     (s.pool.state = .normal → s.pool.free.length < s.pool.lowMark →
       evaluatePool s = noteEvent .poolLow none (some (BitVec.ofNat 16 s.pool.free.length))
         (s.modPool (fun p => { p with state := .low }))) ∧
     (s.pool.state = .normal → s.pool.lowMark ≤ s.pool.free.length → evaluatePool s = s) ∧
     (s.pool.state = .low → s.pool.highMark ≤ s.pool.free.length →
       evaluatePool s = s.modPool (fun p => { p with state := .normal })) ∧
     (s.pool.state = .low → s.pool.free.length < s.pool.highMark → evaluatePool s = s))

/-- RESERVATION_GRANT (R45): with more free slots than the reserve and a line waiting, the head of the free
list goes to the first waiter from the line after the one last granted, upward and round. -/
def Obligations.GrantIsRoundRobin : Prop :=
  ∀ s : State, s.rstnLow = false → s.pool.reserve < s.pool.free.length → s.pool.waiters ≠ 0#8 →
    ∃ (d : Fin 8) (i : SlotIx) (rest : List SlotIx) (t : State),
      LineSet.has s.pool.waiters (s.pool.lastGranted + 1 + d) = true ∧
      (∀ e : Fin 8, e < d → LineSet.has s.pool.waiters (s.pool.lastGranted + 1 + e) = false) ∧
      s.pool.free = i :: rest ∧ exec .reservationGrant s = .next t ∧
      Follows
        (((s.modPool (fun p =>
            { p with
              free := rest
              waiters := LineSet.erase p.waiters (s.pool.lastGranted + 1 + d)
              lastGranted := s.pool.lastGranted + 1 + d })).modSlot i (fun x =>
            { x with arrival := some (s.pool.lastGranted + 1 + d), holders := 1, retry := 0 })).modLine
          (s.pool.lastGranted + 1 + d) (fun l => { l with reservation := some i })) t

/-- The broadcast rule (R50, R51): refused when the kind is not DATA, no target is left or the pool is LOW;
otherwise one reference joins the queue of each target line that admits it, the holder count becomes the
number of those lines, and the copy keeps destination and all else but the confirm field. When no target line
admits it, each counts Q_REFUSED and the slot is released within the event: its holder count becomes 0, it joins
the tail of the free list and the pool is served. That the copies are offered in ascending line number is the
model's choice (log entry 5). -/
def Obligations.BroadcastSharesOneSlot : Prop :=
  ∀ (s : State) (k : Line) (i : SlotIx),
    let targets := allLines.filter (fun j => LineSet.has s.route.broadcastSet j && decide (j ≠ k))
    let takers := targets.filter (fun j => (s.line j).admits)
    ((s.frame i).kind ≠ .data ∨ targets = [] ∨ s.pool.state = .low →
      broadcast k i s = releaseRef i (countRelay .bcastShed s)) ∧
    ((s.frame i).kind = .data → targets ≠ [] → s.pool.state = .normal →
      (∀ j, ((broadcast k i s).line j).normalQ =
        if j ∈ takers then (s.line j).normalQ ++ [i] else (s.line j).normalQ) ∧
      (∀ j, ((broadcast k i s).line j).counter .qRefused =
        if j ∈ targets ∧ j ∉ takers then satInc ((s.line j).counter .qRefused)
        else (s.line j).counter .qRefused) ∧
      ((s.slot i).holders = 1 → i ∉ s.pool.free → takers ≠ [] →
        ((broadcast k i s).slot i).holders = takers.length ∧
        (broadcast k i s).frame i = { s.frame i with confirm := false }) ∧
      ((s.slot i).holders = 1 → i ∉ s.pool.free → takers = [] →
        let u := targets.foldl (fun v j => countLine j .qRefused v)
          (s.modFrame i (fun f => { f with confirm := false }))
        broadcast k i s = poolService (dropRef i u) ∧
        ((dropRef i u).slot i).holders = 0 ∧ i ∉ u.pool.free ∧
        (dropRef i u).pool.free = u.pool.free ++ [i]))

/-! ## Notices -/

/-- An event changes the record of its kind: pending, one more to the count up to 255, and the latest
detail; whatever the state, mask and address are; and the emission test follows (R164). A record but that of
COUNTER-FULL, which a refused NOTICE's count can give, stands through the emission. -/
def Obligations.EventIsRecorded : Prop :=
  ∀ (q : NoticeKind) (l : Option Line) (v : Option Addr) (s : State),
    let r := s.notice.records.get q.code
    let r' : NoticeRecord :=
      { pending := true, count := if r.count = 0xFF#8 then 0xFF#8 else r.count + 1#8,
        line := l, value := v }
    let u : State :=
      { s with notice := { s.notice with records := s.notice.records.set q.code r' } }
    noteEvent q l v s = emissionTest u ∧
    ∀ p : NoticeKind, p ≠ .counterFull →
      (emissionTest u).notice.records.get p.code = u.notice.records.get p.code

/-- The build of a NOTICE (R167, R168, R182): the sequence steps, the listed set takes the unmasked pending
kinds with their counts, the unit enters OUTSTANDING and its timer starts, and the records of all kinds but
COUNTER-FULL are as they were. The frame handed to the route unit has one entry of five bytes for each
listed kind. It stands, with the stepped sequence, in the slot that was at the head of the free list, joins
the urgent queue of the line the route unit decides, or is refused and its slot released (R69, R70, R80).
NOTICE_INTERVAL_EXPIRY and NOTICE_SLOT_SERVED: the unit becomes IDLE and the emission test follows (R170); a
waiting request is served from the head of the free list (R47). -/
def Obligations.NoticeListsPendingKinds : Prop :=
  ((∀ s : State, s.pool.free ≠ [] →
     (emitNotice s).notice.seq = s.notice.seq + 1#4 ∧
     (emitNotice s).notice.state = .outstanding ∧
     (emitNotice s).notice.timer = some s.notice.interval ∧
     (emitNotice s).notice.building = none ∧ (emitNotice s).pool.noticeWaiting = false ∧
     (emitNotice s).notice.listed =
       (allKinds.filter (fun q => (s.notice.records.get q.code).pending &&
         !s.notice.mask.getLsbD q.code.val)).map (fun q => (q, (s.notice.records.get q.code).count)) ∧
     ∀ q : NoticeKind, q ≠ .counterFull →
       (emitNotice s).notice.records.get q.code = s.notice.records.get q.code) ∧
   (∀ s : State, noticeFrame s =
     { dest := s.notice.address, src := s.route.relayAddr, kind := .notice, confirm := false,
       seq := s.notice.seq, len := 1 + 5 * s.notice.reported.length,
       payload := numByte s.notice.reported.length :: s.notice.reported.flatMap (fun q =>
         let r := s.notice.records.get q.code
         [numByte q.code.val, r.count, lineOrNone r.line] ++ valueOrNone r.value) }) ∧
   (∀ (s : State) (i : SlotIx) (rest : List SlotIx), s.pool.free = i :: rest →
     let built := noticeFrame { s with notice := { s.notice with seq := s.notice.seq + 1#4 } }
     let released : Prop := (emitNotice s).lines = s.lines ∧ ((emitNotice s).slot i).holders = 0 ∧
       (emitNotice s).pool.free = rest ++ [i]
     (∀ n, n ≠ i → (emitNotice s).slot n = s.slot n) ∧
     (∀ j d, decideRelay s.route s.notice.address = .forward j d →
       ((s.line j).state = .active → (s.line j).urgentQ.length < 4 →
         (emitNotice s).slot i =
           { frame := { built with dest := d }, arrival := none, holders := 1, retry := 0 } ∧
         (emitNotice s).lines =
           (s.setLine j { s.line j with urgentQ := (s.line j).urgentQ ++ [i] }).lines ∧
         (emitNotice s).pool.free = rest) ∧
       ((s.line j).state ≠ .active ∨ 4 ≤ (s.line j).urgentQ.length →
         released ∧ (emitNotice s).route = s.route)) ∧
     (decideRelay s.route s.notice.address = .discard → released ∧
       (emitNotice s).route.counter .discarded = satInc (s.route.counter .discarded)) ∧
     (decideRelay s.route s.notice.address = .unrouted → released ∧
       (emitNotice s).route.counter .unrouted = satInc (s.route.counter .unrouted)))) ∧
  ((∀ s : State, s.rstnLow = false → s.notice.timer ≠ none →
     ∃ t, exec .noticeIntervalExpiry s = .next t ∧
       Follows (emissionTest { s with notice := { s.notice with state := .idle, timer := none } }) t) ∧
   (∀ s : State, s.rstnLow = false → s.pool.noticeWaiting = true → s.pool.free ≠ [] →
     ∃ t, exec .noticeSlotServed s = .next t ∧ Follows (emitNotice s) t) ∧
   (∀ s : State, s.notice.state = .idle → s.notice.address ≠ 0#16 →
     (∃ q : NoticeKind, (s.notice.records.get q.code).pending = true ∧
       s.notice.mask.getLsbD q.code.val = false) → s.pool.noticeWaiting = false →
     emissionTest s =
       if s.pool.free = [] then { s with pool := { s.pool with noticeWaiting := true } }
       else emitNotice s))

/-! ## Routing -/

/-- What a route entry covers (R56): an entry that is not valid nothing, a valid one the destinations from
low to high as unsigned numbers, both included. The lookup stops at the first valid entry, in ascending
index, whose range includes the destination (R62). -/
def Obligations.LookupTakesFirstCoveringEntry : Prop :=
  ((∀ (e : RouteEntry) (d : Addr), e.covers d = true ↔
     e.valid = true ∧ e.low.toNat ≤ d.toNat ∧ d.toNat ≤ e.high.toNat) ∧
   (∀ (e : RouteEntry) (d : Addr), e.valid = true → e.low = e.high →
     (e.covers d = true ↔ d = e.low)) ∧
   (∀ (e : RouteEntry) (d : Addr), e.valid = true → e.low = 1#16 → e.high = 0xFFFE#16 →
     (e.covers d = true ↔ d ≠ 0#16 ∧ d ≠ 0xFFFF#16)) ∧
   (∀ (t u : RouteTable) (d : Addr),
     (∀ n : Fin 64, ((t.get n).valid = true ∨ (u.get n).valid = true) → t.get n = u.get n) →
     lookup t d = lookup u d)) ∧
  (∀ (t : RouteTable) (d : Addr),
     (∀ n : Fin 64, (t.get n).covers d = true → (∀ m : Fin 64, m < n → (t.get m).covers d = false) →
       lookup t d = some (t.get n)) ∧
     ((∀ n : Fin 64, (t.get n).covers d = false) → lookup t d = none))

/-- The tests of the deciding entry for a received frame, and their order: FILTERED before DISCARDED before
HAIRPIN (R63, R64, R65); a frame that passes takes the rewrite and is offered to the target's normal queue;
a relay-originated frame is not tested for arrival set or hairpin. The default action for a received frame
(R68): DISCARD counts UNROUTED and gives the event, another line is offered the frame unchanged, the arrival
line refuses it as HAIRPIN. That the UNROUTED event, with its emission test, comes before the release of the slot
is the model's choice (log entry 5). -/
def Obligations.ReceivedFrameIsRouted : Prop :=
  (∀ (s : State) (k : Line) (i : SlotIx) (e : RouteEntry),
     (s.frame i).dest ≠ s.route.relayAddr → (s.frame i).dest ≠ 0xFFFF#16 →
     lookup s.route.active (s.frame i).dest = some e →
     (LineSet.has e.arrivals k = false →
       routeReceived k i s = (releaseRef i (countRelay .filtered s), false)) ∧
     (LineSet.has e.arrivals k = true → e.target = .discard →
       routeReceived k i s = (releaseRef i (countRelay .discarded s), false)) ∧
     (LineSet.has e.arrivals k = true → e.target = .line k → e.hairpin = false →
       routeReceived k i s = (releaseRef i (countRelay .hairpin s), false)) ∧
     (∀ j, LineSet.has e.arrivals k = true → e.target = .line j → (j = k → e.hairpin = true) →
       let d := if e.rewrite = .shift then e.base + ((s.frame i).dest - e.low) else (s.frame i).dest
       let u := s.modFrame i (fun f => { f with dest := d })
       routeReceived k i s =
         if (s.line j).state = .active ∧ (s.line j).normalQ.length < (s.line j).config.quota then
           (u.setLine j { s.line j with normalQ := (s.line j).normalQ ++ [i] }, true)
         else (releaseRef i (countLine j .qRefused u), false)) ∧
     (∀ j, e.target = .line j → decideRelay s.route (s.frame i).dest =
       .forward j (if e.rewrite = .shift then e.base + ((s.frame i).dest - e.low)
         else (s.frame i).dest)) ∧
     (e.target = .discard → decideRelay s.route (s.frame i).dest = .discard)) ∧
  (∀ (s : State) (k : Line) (i : SlotIx),
     (s.frame i).dest ≠ s.route.relayAddr → (s.frame i).dest ≠ 0xFFFF#16 →
     lookup s.route.active (s.frame i).dest = none →
     (s.route.defaultAction = .discard →
       routeReceived k i s =
         (releaseRef i (noteEvent .unrouted (some k) (some (s.frame i).dest)
           (countRelay .unrouted s)), false)) ∧
     (s.route.defaultAction = .line k →
       routeReceived k i s = (releaseRef i (countRelay .hairpin s), false)) ∧
     (∀ j, j ≠ k → s.route.defaultAction = .line j →
       routeReceived k i s =
         if (s.line j).state = .active ∧ (s.line j).normalQ.length < (s.line j).config.quota then
           (s.setLine j { s.line j with normalQ := (s.line j).normalQ ++ [i] }, true)
         else (releaseRef i (countLine j .qRefused s), false)))

/-- A received frame to FFFFh that is not MGMT is decided by the broadcast rule, whatever the route table
holds, and its destination is not rewritten (R61). A command to this relay (R60): accepted into the agent
queue when its line accepts management and the queue holds fewer than 4, else refused as FILTERED or
AGENT_FULL. -/
def Obligations.BroadcastsAndCommandsAreNotRouted : Prop :=
  (∀ (s : State) (k : Line) (i : SlotIx), s.route.relayAddr ≠ 0xFFFF#16 →
     (s.frame i).dest = 0xFFFF#16 → (s.frame i).kind ≠ .mgmt →
     routeReceived k i s = (broadcast k i s, false) ∧
     (∀ active : RouteTable, decideReceived { s.route with active := active } k (s.frame i) =
       .broadcast)) ∧
  (∀ (s : State) (k : Line) (i : SlotIx),
     (s.frame i).dest = s.route.relayAddr ∨
       ((s.frame i).dest = 0xFFFF#16 ∧ (s.frame i).kind = .mgmt) →
     ((s.line k).config.mgmtAccepted = false →
       routeReceived k i s = (releaseRef i (countRelay .filtered s), false)) ∧
     ((s.line k).config.mgmtAccepted = true → s.agent.queue.length < 4 →
       routeReceived k i s =
         ({ s with agent := { s.agent with queue := s.agent.queue ++ [i] } }, false)) ∧
     ((s.line k).config.mgmtAccepted = true → 4 ≤ s.agent.queue.length →
       routeReceived k i s = (releaseRef i (countRelay .agentFull s), false)))

/-- A relay-originated frame with no entry under default action DISCARD is counted UNROUTED and released; a
RETURN gives the UNROUTED event with no line and its destination, a NOTICE gives none (R70); a RETURN with a
decided line joins its normal queue or counts Q_REFUSED there, and a DISCARD entry counts DISCARDED (R69,
R102). That the count and the event come before the release is the model's choice (log entry 5). A RETURN
(R9, R101, R182): made in the failed frame's slot from its fields, arrival "relay", retry count 0, the holder
count kept; and nothing else is changed. A flush (R85, R86): the confirmed DATA frames at the transmit
position and in the normal queue, and the frame in the await record, are made RETURNs with reason LINE-DOWN in
the order of those places, every other reference is dropped, a slot whose last reference goes is released in
the order of the drops, the RETURNs are then handed to the route unit in their order, and last the pool serves
and evaluates its state against the free list the flush leaves. That the evaluation R48 has at the end of the
event is made besides (`settle`) is the model's choice (log entry 5). -/
def Obligations.RelayOriginatedFrames : Prop :=
  (∀ (s : State) (i : SlotIx), lookup s.route.active (s.frame i).dest = none →
     s.route.defaultAction = .discard →
     (routeReturn i s =
       dropRef i (noteEvent .unrouted none (some (s.frame i).dest) (countRelay .unrouted s))) ∧
     ((routeNotice i s).route.counter .unrouted = satInc (s.route.counter .unrouted) ∧
       (routeNotice i s).notice.records.get NoticeKind.unrouted.code =
         s.notice.records.get NoticeKind.unrouted.code ∧
       ((s.slot i).holders = 1 → (routeNotice i s).pool.free = s.pool.free ++ [i]))) ∧
  (∀ (s : State) (i : SlotIx) (r : Reason),
     (makeReturn r i s).slot i =
       { frame :=
           { dest := (s.frame i).src, src := s.route.relayAddr, kind := .ret, confirm := false,
             seq := (s.frame i).seq, len := 7,
             payload :=
               [match r with
                | .noConfirm => 1#8
                | .absent => 2#8
                | .lineDown => 3#8,
                hiByte (s.frame i).dest, loByte (s.frame i).dest,
                hiByte (s.frame i).src, loByte (s.frame i).src,
                controlByte (s.frame i).kind (s.frame i).confirm (s.frame i).seq,
                numByte (s.frame i).len] }
         arrival := none, holders := (s.slot i).holders, retry := 0 } ∧
     (∀ j, j ≠ i → (makeReturn r i s).slot j = s.slot j) ∧
     (makeReturn r i s).lines = s.lines ∧ (makeReturn r i s).pool = s.pool ∧
     ((s.frame i).kind = .data → (s.frame i).confirm = true →
       controlByte (s.frame i).kind (s.frame i).confirm (s.frame i).seq =
         0x10#8 + (s.frame i).seq.setWidth 8)) ∧
  (∀ (s : State) (i : SlotIx) (j : Line) (d : Addr),
     (decideRelay s.route (s.frame i).dest = .forward j d →
       let u := s.modFrame i (fun f => { f with dest := d })
       routeReturn i s =
         if (s.line j).state = .active ∧ (s.line j).normalQ.length < (s.line j).config.quota then
           u.setLine j { s.line j with normalQ := (s.line j).normalQ ++ [i] }
         else dropRef i (countLine j .qRefused u)) ∧
     (decideRelay s.route (s.frame i).dest = .discard →
       routeReturn i s = dropRef i (countRelay .discarded s))) ∧
  ((∀ (s : State) (l : LineRec),
     let confirmed (i : SlotIx) : Bool := decide ((s.frame i).kind = .data) && (s.frame i).confirm
     let first : List SlotIx := match l.tp with
       | some (.normal i) => [i]
       | _ => []
     let second : List SlotIx := match l.tp with
       | some (.urgent i) => [i]
       | some (.resend i) => [i]
       | _ => []
     let awaiting : List SlotIx := match l.await with
       | .empty => []
       | .waiting i => [i]
       | .due i => [i]
       | .resending i => [i]
     let returns := first.filter confirmed ++ awaiting ++ l.normalQ.filter confirmed
     let dropped := second ++ first.filter (fun i => !confirmed i) ++
       l.normalQ.filter (fun i => !confirmed i) ++ l.urgentQ
     (first ++ awaiting ++ l.normalQ).Nodup →
     ∃ (u : State) (released : List SlotIx), flushFrames l s = (u, returns) ∧
       u.lines = s.lines ∧ u.route = s.route ∧ u.notice = s.notice ∧
       (∀ i ∈ returns, u.slot i =
         { (makeReturn .lineDown i s).slot i with
           holders := (s.slot i).holders - dropped.count i }) ∧
       (∀ i, i ∉ returns → u.slot i =
         { s.slot i with holders := (s.slot i).holders - dropped.count i }) ∧
       u.pool = { s.pool with free := s.pool.free ++ released } ∧ released.Sublist dropped ∧
       ∀ i, released.count i =
         if 1 ≤ (s.slot i).holders ∧ (s.slot i).holders ≤ dropped.count i then 1 else 0) ∧
   (∀ (s : State) (k : Line) (polled : Bool),
     let r := flushFrames (s.line k) (s.modLine k (LineRec.emptied polled))
     flushLine k polled s = evaluatePool (poolService (r.2.foldl (fun u i => routeReturn i u) r.1))))

/-! ## The line engine -/

/-- TRANSMIT_SELECTION on a DIRECT line (R82, R98, R107): a CONF owed, the urgent queue, a due
retransmission, the normal queue while nothing awaits, in that order; with nothing to send the position
stays empty. -/
def Obligations.DirectLineSelectsInOrder : Prop :=
  ∀ (s : State) (k : Line), s.rstnLow = false → (s.line k).state = .active →
    (s.line k).config.mode = .direct → (s.line k).tp = none →
    let answers (u : State) : Prop := ∃ t, exec (.transmitSelection k) s = .next t ∧ Follows u t
    let l := s.line k
    (∀ e es, l.pendingConf = e :: es →
      answers (s.setLine k
        { l with
          pendingConf := es
          tp := some (.conf
            { dest := e.dest, src := e.src, kind := .conf, confirm := false, seq := e.seq, len := 0,
              payload := [] }) })) ∧
    (∀ i is, l.pendingConf = [] → l.urgentQ = i :: is →
      answers (s.setLine k { l with urgentQ := is, tp := some (.urgent i) })) ∧
    (∀ i, l.pendingConf = [] → l.urgentQ = [] → l.await = .due i →
      answers ((s.modSlot i (fun x => { x with holders := x.holders + 1 })).setLine k
        { l with await := .resending i, tp := some (.resend i) })) ∧
    (∀ i is, l.pendingConf = [] → l.urgentQ = [] → l.await = .empty → l.normalQ = i :: is →
      answers (s.setLine k { l with normalQ := is, tp := some (.normal i) })) ∧
    (l.pendingConf = [] → l.urgentQ = [] → (∀ i, l.await ≠ .due i) →
      l.await ≠ .empty ∨ l.normalQ = [] → answers s)

/-- POLLED_TURN (R113, R114, R116, R117): the first three sources as on a DIRECT line; then the head of the
normal queue while nothing awaits and the burst limit allows, unless its node is ABSENT; then a poll of the
first eligible entry from the poll position on, or the end of the pass and its pause; with a poll pause of 0
the search goes on in the same turn, pass after pass, until an entry is eligible. A head whose
destination is ABSENT is removed at its turn (R115): a confirmed DATA frame is returned with reason ABSENT,
any other is released and counted Q_REFUSED; and the turn goes on with the new head: sent if its node is not
ABSENT, removed in turn if it is, and with the queue empty the search for a poll follows. That a turn which only
ends a pass and starts the pause is followed by another in the same event, within `Follows`, is the model's choice
(log entry 5). -/
def Obligations.PolledLineTakesTurnsInOrder : Prop :=
  (∀ (s : State) (k : Line), s.rstnLow = false → (s.line k).state = .active →
     (s.line k).config.mode = .polled → (s.line k).tp = none → (s.line k).rx.phase = .hunt →
     (s.line k).window = .closed → (s.line k).turnaround = none →
     let answers (u : State) : Prop := ∃ t, exec (.polledTurn k) s = .next t ∧ Follows u t
     let l := s.line k
     let noFirst : Prop := l.pendingConf = [] ∧ l.urgentQ = [] ∧ ∀ i, l.await ≠ .due i
     (∀ e es, l.pendingConf = e :: es →
       answers (s.setLine k (LineRec.sending { l with pendingConf := es } (.conf
         { dest := e.dest, src := e.src, kind := .conf, confirm := false, seq := e.seq, len := 0,
           payload := [] })))) ∧
     (∀ i is, l.pendingConf = [] → l.urgentQ = i :: is →
       answers (s.setLine k (LineRec.sending { l with urgentQ := is } (.urgent i)))) ∧
     (∀ i, l.pendingConf = [] → l.urgentQ = [] → l.await = .due i →
       answers ((s.modSlot i (fun x => { x with holders := x.holders + 1 })).setLine k
         (LineRec.sending { l with await := .resending i } (.resend i)))) ∧
     (∀ i is, noFirst → l.await = .empty → l.normalQ = i :: is →
       l.pollList = [] ∨ l.burst < l.config.burstLimit →
       (∀ e ∈ l.pollList, e.node = (s.frame i).dest → e.presence ≠ .absent) →
       answers (s.setLine k (LineRec.sending
         { l with
           normalQ := is
           burst := if l.pollList = [] then l.burst else l.burst + 1 } (.normal i)))) ∧
     (∀ n e, noFirst → l.await ≠ .empty ∨ l.normalQ = [] ∨
         (l.pollList ≠ [] ∧ l.config.burstLimit ≤ l.burst) →
       l.pauseTimer = none → l.pollPos ≤ n → l.pollList[n]? = some e →
       (e.presence = .absent → l.cycle.toNat % l.config.recheckCycles = 0) →
       (∀ m d, l.pollPos ≤ m → m < n → l.pollList[m]? = some d →
         d.presence = .absent ∧ l.cycle.toNat % l.config.recheckCycles ≠ 0) →
       answers (s.setLine k (LineRec.sending { l with pollPos := n + 1, burst := 0 } (.poll
         { dest := e.node, src := s.route.relayAddr, kind := .poll, confirm := false, seq := 0#4,
           len := 0, payload := [] })))) ∧
     (noFirst → l.await ≠ .empty ∨ l.normalQ = [] ∨
         (l.pollList ≠ [] ∧ l.config.burstLimit ≤ l.burst) →
       l.pauseTimer = none → l.pollList ≠ [] → 0 < l.config.pollPause →
       (∀ m d, l.pollPos ≤ m → l.pollList[m]? = some d →
         d.presence = .absent ∧ l.cycle.toNat % l.config.recheckCycles ≠ 0) →
       answers (s.setLine k
         { l with
           cycle := l.cycle + 1#4, pollPos := 0, burst := 0
           pauseTimer := some l.config.pollPause })) ∧
     (∀ (m n : Nat) (e : PollEntry), noFirst → l.await ≠ .empty ∨ l.normalQ = [] ∨
         (l.pollList ≠ [] ∧ l.config.burstLimit ≤ l.burst) →
       l.pauseTimer = none → l.config.pollPause = 0 → 1 ≤ m → m ≤ 16 →
       (∀ x d, l.pollPos ≤ x → l.pollList[x]? = some d →
         d.presence = .absent ∧ l.cycle.toNat % l.config.recheckCycles ≠ 0) →
       (∀ q, 1 ≤ q → q < m → ∀ d ∈ l.pollList, d.presence = .absent ∧
         (l.cycle + BitVec.ofNat 4 q).toNat % l.config.recheckCycles ≠ 0) →
       l.pollList[n]? = some e →
       (e.presence = .absent →
         (l.cycle + BitVec.ofNat 4 m).toNat % l.config.recheckCycles = 0) →
       (∀ x d, x < n → l.pollList[x]? = some d → d.presence = .absent ∧
         (l.cycle + BitVec.ofNat 4 m).toNat % l.config.recheckCycles ≠ 0) →
       answers (s.setLine k (LineRec.sending
         { l with cycle := l.cycle + BitVec.ofNat 4 m, pollPos := n + 1, burst := 0 } (.poll
         { dest := e.node, src := s.route.relayAddr, kind := .poll, confirm := false, seq := 0#4,
           len := 0, payload := [] })))) ∧
     (noFirst → l.await ≠ .empty ∨ l.normalQ = [] ∨
         (l.pollList ≠ [] ∧ l.config.burstLimit ≤ l.burst) →
       l.pollList = [] ∨ l.pauseTimer ≠ none → answers s) ∧
     (noFirst → l.await ≠ .empty ∨ l.normalQ = [] ∨
         (l.pollList ≠ [] ∧ l.config.burstLimit ≤ l.burst) → answers (pollSearch k 18 s)) ∧
     (∀ i is e, noFirst → l.await = .empty → l.pollList = [] ∨ l.burst < l.config.burstLimit →
       l.normalQ = i :: is → findEntry (s.frame i).dest l.pollList = some e → e.presence = .absent →
       let u := s.setLine k { l with normalQ := is }
       let removed :=
         if (s.frame i).kind = .data ∧ (s.frame i).confirm = true then returnFrame .absent i u
         else countLine k .qRefused (releaseRef i u)
       let r := serveNormal k (2 * is.length + 2) removed
       answers (if r.2 = true then r.1 else pollSearch k 18 r.1)) ∧
     answers (takeTurn k s)) ∧
  (∀ (s : State) (k : Line) (fuel : Nat),
     ((s.line k).normalQ = [] → serveNormal k fuel s = (s, false)) ∧
     (∀ i is, (s.line k).normalQ = i :: is →
       (∀ e, findEntry (s.frame i).dest (s.line k).pollList = some e → e.presence ≠ .absent) →
       serveNormal k (fuel + 1) s =
         (s.setLine k (LineRec.sending
           { s.line k with
             normalQ := is
             burst := if (s.line k).pollList = [] then (s.line k).burst
               else (s.line k).burst + 1 } (.normal i)), true))) ∧
  (∀ (s : State) (k : Line) (i : SlotIx) (is : List SlotIx) (e : PollEntry) (fuel : Nat),
     (s.line k).normalQ = i :: is →
     findEntry (s.frame i).dest (s.line k).pollList = some e → e.presence = .absent →
     let u := s.setLine k { s.line k with normalQ := is }
     serveNormal k (fuel + 1) s = serveNormal k fuel
       (if (s.frame i).kind = .data ∧ (s.frame i).confirm = true then returnFrame .absent i u
        else countLine k .qRefused (releaseRef i u)) ∧
     ((removeAbsentHead k i s).line k).burst = (s.line k).burst ∧
     ((removeAbsentHead k i s).line k).counter .txReturn = (s.line k).counter .txReturn)

/-- TRANSMIT_COMPLETION (R32, R84, R93, R98, R107, R118) of anything but the reply a pending restart waits
for: TX_SENT is counted, and what the position held is disposed of by what it was. The completion of that
reply is `RestartFollowsItsReply`'s. -/
def Obligations.TransmitCompletionDisposes : Prop :=
  ∀ (s : State) (k : Line), s.rstnLow = false → (s.line k).state = .active →
    (s.agent.state ≠ .restartPending ∧ s.agent.restartReply = none ∨
      ∃ r, s.agent.restartReply = some r ∧ (s.line k).tp ≠ some (.urgent r)) →
    let v := (countLine k .txSent s).modLine k (fun l => { l with tp := none })
    let answers (u : State) : Prop := ∃ t, exec (.transmitCompletion k) s = .next t ∧ Follows u t ∧
      (t.line k).counter .txSent = satInc ((s.line k).counter .txSent)
    let awaiting (i : SlotIx) (u : State) : State :=
      if (s.line k).config.mode = .polled then
        u.modLine k (fun l =>
          { l with
            await := .waiting i, window := .opened .data (u.frame i).dest
            windowTimer := some l.config.replyWindow })
      else u.modLine k (fun l =>
        { l with await := .waiting i, confirmTimer := some l.config.confirmTimeout })
    (∀ f, (s.line k).tp = some (.conf f) → answers v) ∧
    (∀ f, (s.line k).tp = some (.poll f) →
      answers (v.modLine k (fun l =>
        { l with window := .opened .poll f.dest, windowTimer := some l.config.replyWindow }))) ∧
    (∀ i, (s.line k).tp = some (.urgent i) → answers (releaseRef i v)) ∧
    (∀ i, (s.line k).tp = some (.normal i) →
      ¬ ((v.frame i).kind = .data ∧ (v.frame i).confirm = true) → answers (releaseRef i v)) ∧
    (∀ i, (s.line k).tp = some (.normal i) → (s.line k).config.mode ≠ .off →
      (v.frame i).kind = .data → (v.frame i).confirm = true → answers (awaiting i v)) ∧
    (∀ i, (s.line k).tp = some (.resend i) → (s.line k).config.mode ≠ .off →
      (s.line k).await = .resending i → answers (awaiting i (releaseRef i v))) ∧
    (∀ i, (s.line k).tp = some (.resend i) → (s.line k).await = .empty →
      answers (releaseRef i v))

/-- CONFIRM_TIMER_EXPIRY (R97): below the retry limit a retransmission becomes due, TX_RETRY counted and the
retry count stepped; otherwise TX_RETURN is counted and the frame returned with NO-CONFIRM. -/
def Obligations.ConfirmTimerMakesRetryOrReturn : Prop :=
  ∀ (s : State) (k : Line) (i : SlotIx) (n : Nat), s.rstnLow = false →
    (s.line k).confirmTimer = some n → (s.line k).await = .waiting i →
    ((s.slot i).retry < (s.line k).config.retryLimit →
      ∃ t, exec (.confirmTimerExpiry k) s = .next t ∧
        Follows (countLine k .txRetry
          ((s.modSlot i (fun x => { x with retry := x.retry + 1 })).setLine k
            { s.line k with await := .due i, confirmTimer := none })) t ∧
        (t.line k).counter .txRetry = satInc ((s.line k).counter .txRetry)) ∧
    ((s.line k).config.retryLimit ≤ (s.slot i).retry →
      ∃ t, exec (.confirmTimerExpiry k) s = .next t ∧
        Follows (returnFrame .noConfirm i (countLine k .txReturn
          (s.setLine k { s.line k with await := .empty, confirmTimer := none }))) t ∧
        (t.line k).counter .txReturn = satInc ((s.line k).counter .txReturn))

/-- REPLY_WINDOW_EXPIRY (R35, R100, R112, R124): POLL_MISS is counted, the window closes, the turnaround
wait starts and the node's entry takes a miss, with NODE-LOST and the RETURN of R100 where it becomes ABSENT;
a window of origin DATA then gives the await record its expiry (R97, R99). In a window of origin DATA whose
miss makes the awaiting frame's node ABSENT neither TX_RETRY nor TX_RETURN is counted. The order of NODE-LOST
and that RETURN is the model's choice (log entry 5), and so is a count above a lowered miss limit (log entry 17). What `presenceMiss` and
`awaitExpiry` do is stated in `ReplySettlesPresence`. -/
def Obligations.WindowExpiryIsAMiss : Prop :=
  ∀ (s : State) (k : Line) (o : Origin) (node : Addr) (n : Nat), s.rstnLow = false →
    (s.line k).window = .opened o node → (s.line k).windowTimer = some n →
    let missed := presenceMiss k node (countLine k .pollMiss (s.setLine k
      { s.line k with
        window := .closed, windowTimer := none
        turnaround :=
          if (s.line k).config.mode = .polled then
            (if (s.line k).config.turnaround = 0 then none else some (s.line k).config.turnaround)
          else (s.line k).turnaround }))
    ∃ t, exec (.replyWindowExpiry k) s = .next t ∧
      Follows (if o = .data then awaitExpiry k missed else missed) t ∧ t.globals = s.globals ∧
      (∀ j, j ≠ k → t.port j = s.port j) ∧
      (t.line k).window = .closed ∧ (t.line k).windowTimer = none ∧
      (t.line k).turnaround =
        (if (s.line k).config.mode = .polled then
          (if (s.line k).config.turnaround = 0 then none else some (s.line k).config.turnaround)
         else (s.line k).turnaround) ∧
      (t.line k).config = (s.line k).config ∧ (t.line k).state = (s.line k).state ∧
      (t.line k).memo = (s.line k).memo ∧
      (t.line k).pollList = (s.line k).pollList.map (fun e =>
        if e.node = node then e.afterMiss (s.line k).config.missLimit else e) ∧
      (t.line k).counter .pollMiss = satInc ((s.line k).counter .pollMiss) ∧
      (∀ c : LineCounter, c ≠ .pollMiss → c ≠ .txRetry → c ≠ .txReturn → c ≠ .qRefused →
        (t.line k).counter c = (s.line k).counter c) ∧
      (o = .poll → (t.line k).counter .txRetry = (s.line k).counter .txRetry ∧
        (t.line k).counter .txReturn = (s.line k).counter .txReturn) ∧
      (∀ i e, o = .data → (s.line k).await = .waiting i → (s.frame i).dest = node →
        i ∉ s.pool.free → findEntry node (s.line k).pollList = some e → e.presence ≠ .absent →
        (s.line k).config.missLimit ≤ e.miss + 1 →
        (t.line k).counter .txRetry = (s.line k).counter .txRetry ∧
        (t.line k).counter .txReturn = (s.line k).counter .txReturn)

/-- TURNAROUND_END and POLL_PAUSE_EXPIRY end their waits and nothing else, and turns may follow (R35, R117).
The levels of RXD and the recovery timer (R17, R22, R23): the return to mark ends the break condition and
the fault timer and, in FAULT, starts the recovery timer; a space in FAULT cancels it; its expiry makes the
line ACTIVE with a fresh receiver and LINE-CHANGE given. A receiver that only waits in SKIP for the mark ends
SKIP with it (R30; the model's reading, log entry 13). That the selection or turn of a line that returns to ACTIVE
comes after the NOTICE that LINE-CHANGE may build, within `Follows`, is the model's choice (log entry 5). -/
def Obligations.LineWaitsAndLevels : Prop :=
  (∀ (s : State) (k : Line) (n : Nat), s.rstnLow = false →
     ((s.line k).turnaround = some n → ∃ t, exec (.turnaroundEnd k) s = .next t ∧
       Follows (s.setLine k { s.line k with turnaround := none }) t) ∧
     ((s.line k).pauseTimer = some n → ∃ t, exec (.pollPauseExpiry k) s = .next t ∧
       Follows (s.setLine k { s.line k with pauseTimer := none }) t)) ∧
  (∀ (s : State) (k : Line), s.rstnLow = false →
     ((s.line k).state = .active →
       ¬ ((s.line k).rx.brk = true ∧ (s.line k).rx.phase = .skip ∧ (s.line k).rx.quiet = none) →
       ∃ t, exec (.rxdReturnToMark k) s = .next t ∧
         Follows (s.setLine k
           { s.line k with
             rxd := .mark, faultTimer := none, rx := { (s.line k).rx with brk := false } }) t) ∧
     ((s.line k).state = .active → (s.line k).rx.brk = true → (s.line k).rx.phase = .skip →
       (s.line k).rx.quiet = none →
       ∃ t, exec (.rxdReturnToMark k) s = .next t ∧
         Follows (damagedReply k (countLine k .rxNoslot (s.setLine k
           { s.line k with
             rxd := .mark, faultTimer := none
             rx := { (s.line k).rx with brk := false, phase := .hunt, gap := none } }))) t) ∧
     ((s.line k).state = .fault → (s.line k).rxd = .space → (s.line k).rx.brk = false →
       ∃ t, exec (.rxdReturnToMark k) s = .next t ∧
         Follows (s.setLine k
           { s.line k with rxd := .mark, faultTimer := none, recovery := some 50 }) t) ∧
     ((s.line k).state = .fault → ∃ t, exec (.rxdSpaceInFault k) s = .next t ∧
       Follows (s.setLine k { s.line k with rxd := .space, recovery := none }) t) ∧
     ((s.line k).state = .fault → (s.line k).recovery ≠ none →
       ∃ t, exec (.recoveryTimerExpiry k) s = .next t ∧
         Follows (noteEvent .lineChange (some k) none
           (s.setLine k
             { s.line k with
               state := .active, recovery := none
               rx := { phase := .hunt, crc := 0xFFFF#16, brk := false, inChar := false, gap := none,
                       quiet := none } })) t))

/-- FAULT_TIMER_EXPIRY (R22, R23, R85, R89, R137), while the line holds no reply that a pending restart waits
for: the line goes to FAULT and is flushed, its receiver stops, its reservation is kept, the recovery timer
runs if RXD is at mark, LINE-CHANGE is recorded, a reply the agent holds for the line is released, and FLT is
low; no other line's port and no setting changes. A RESTART reply that is lost with the line, sent from it,
queued on it or held for it, brings the warm restart within the event (R145). The level of RXD is the one the
port last took (log entry 2). That the flush, whose releases may grant waiting lines a slot, comes before
LINE-CHANGE, whose NOTICE may take one, and LINE-CHANGE before the release of the held reply, are the model's
choices (log entry 5). -/
def Obligations.FaultTimerTakesLineDown : Prop :=
  ∀ (s : State) (k : Line) (n : Nat), s.rstnLow = false → (s.line k).state = .active →
    (s.line k).faultTimer = some n →
    let u := dropHeldReply k (noteEvent .lineChange (some k) none
      (flushLine k (decide ((s.line k).config.mode = .polled)) (s.setLine k
        { s.line k with
          state := .fault, faultTimer := none
          recovery := if (s.line k).rxd = .mark then some 50 else none
          rx := { (s.line k).rx with brk := false, inChar := false } })))
    (∀ r, s.agent.state = .restartPending → s.agent.restartReply = some r →
      (s.line k).tp = some (.urgent r) ∨ r ∈ (s.line k).urgentQ ∨
        (s.agent.current = some r ∧ (s.slot r).arrival = some k ∧
          r ∉ (s.line k).refs ∧ r ∉ s.pool.free) →
      ∃ t, exec (.faultTimerExpiry k) s = .next t ∧ Follows (warmRestart u) t ∧
        u.globals = s.globals ∧ (∀ j, j ≠ k → u.port j = s.port j) ∧
        (u.line k).state = .fault ∧ u.agent.restartReply = none) ∧
    ((s.agent.state ≠ .restartPending ∨
        ∃ r, s.agent.restartReply = some r ∧ r ∉ (s.line k).refs ∧
          (s.agent.current = some r → (s.slot r).arrival ≠ some k ∧ r ∉ s.pool.free)) →
    ∃ t, exec (.faultTimerExpiry k) s = .next t ∧ Follows u t ∧ t.globals = s.globals ∧
      (∀ j, j ≠ k → t.port j = s.port j) ∧
      (t.line k).state = .fault ∧ (t.line k).config = (s.line k).config ∧
      (t.line k).rx.phase = .stopped ∧ (t.line k).rx.brk = false ∧
      (t.line k).rx.gap = none ∧ (t.line k).rx.quiet = none ∧
      (t.line k).faultTimer = none ∧
      (t.line k).recovery = (if (s.line k).rxd = .mark then some 50 else none) ∧
      (t.line k).tp = none ∧ (t.line k).normalQ = [] ∧ (t.line k).urgentQ = [] ∧
      (t.line k).await = .empty ∧ (t.line k).confirmTimer = none ∧
      (t.line k).pendingConf = [] ∧ (t.line k).memo = [] ∧
      (t.line k).window = .closed ∧ (t.line k).windowTimer = none ∧ (t.line k).pauseTimer = none ∧
      (∀ i, (s.line k).reservation = some i → LineSet.has s.pool.waiters k = false →
        (t.line k).reservation = some i) ∧
      ((s.line k).config.mode = .polled →
        (t.line k).pollList = (s.line k).pollList.map PollEntry.reset ∧ (t.line k).pollPos = 0 ∧
        (t.line k).cycle = 0#4 ∧ (t.line k).burst = 0) ∧
      t.de k = false ∧ t.fltLow = true ∧
      t.notice.records.get NoticeKind.lineChange.code =
        { pending := true
          count :=
            if (s.notice.records.get NoticeKind.lineChange.code).count = 0xFF#8 then 0xFF#8
            else (s.notice.records.get NoticeKind.lineChange.code).count + 1#8
          line := some k, value := none })

/-! ## The management agent -/

/-- AGENT_TAKE (R132): an IDLE agent takes the head of its queue and enters EXECUTING. The offer of a reply
(R136, R137): placed at the tail of its arrival line's urgent queue, held when the queue is full, released
when the line is not ACTIVE; and REPLY_WAIT_ROOM makes the offer again, also for a RESTART reply, whose release
brings the warm restart (R145). That the room reaches the agent in an event of its own is the model's choice
(log entry 14). -/
def Obligations.AgentTakesAndOffers : Prop :=
  (∀ (s : State) (i : SlotIx) (rest : List SlotIx), s.rstnLow = false → s.agent.state = .idle →
     s.agent.queue = i :: rest →
     ∃ t, exec .agentTake s = .next t ∧
       Follows { s with
         agent := { s.agent with queue := rest, current := some i, state := .executing } } t) ∧
  ((∀ (s : State) (i : SlotIx) (j : Line), s.agent.current = some i → (s.slot i).arrival = some j →
     ((s.line j).state = .active → (s.line j).urgentQ.length < 4 →
       offerReply s =
         { s.setLine j { s.line j with urgentQ := (s.line j).urgentQ ++ [i] } with
           agent := { s.agent with
             current := none
             state := if s.agent.state = .restartPending then .restartPending else .idle } }) ∧
     ((s.line j).state = .active → 4 ≤ (s.line j).urgentQ.length →
       offerReply s =
         { s with agent := { s.agent with
             state := if s.agent.state = .restartPending then .restartPending else .replyWait } }) ∧
     ((s.line j).state ≠ .active → s.agent.state ≠ .restartPending → s.agent.restartReply = none →
       offerReply s =
         releaseRef i { s with agent := { s.agent with current := none, state := .idle } })) ∧
   (∀ (s : State) (i : SlotIx), s.rstnLow = false → s.agent.state = .replyWait →
     s.agent.current = some i →
     ∃ t, exec .replyWaitRoom s = .next t ∧ Follows (offerReply s) t) ∧
   (∀ (s : State) (i : SlotIx), s.rstnLow = false → s.agent.state = .restartPending →
     s.agent.current = some i → s.agent.restartReply = some i →
     (∀ j, (s.slot i).arrival = some j → (s.line j).state = .active →
       ∃ t, exec .replyWaitRoom s = .next t ∧ Follows (offerReply s) t) ∧
     ((∀ j, (s.slot i).arrival = some j → (s.line j).state ≠ .active) →
       ∃ t, exec .replyWaitRoom s = .next t ∧ Follows (warmRestart (offerReply s)) t)))

/-- Tests 2 to 4 of the series (R133, R139) at the execution completion of any command, and UNKNOWN_COMMAND:
the refusal is replied and nothing else is changed. A replay (R133, R144): the holder's command with the
cached code and a cached tag other than 0 is not executed; the lease starts again and the cached status,
detail and results are sent. The 22 lengths (Table 12-4), the commands that need the claim (Table 8-3), and
when a command is from the holder and when it is answered by replay (R139, R144). -/
def Obligations.CommandTestsRefuseOrReplay : Prop :=
  ((∀ (i : Instr) (code : Byte) (n : Nat) (s : State) (c : Cmd), commandCode? i = some code →
     commandLength code = some n → s.rstnLow = false → s.command = some c → c.code = code →
     c.replay s.agent = none →
     (c.len ≠ n → ∃ t, exec i s = .next t ∧
       Follows (afterReply i (s.replied c { status := .length, detail := 0#8, results := [] })) t) ∧
     (c.len = n → c.needsClaim = true → s.agent.claim = none →
       ∃ t, exec i s = .next t ∧
         Follows (afterReply i (s.replied c { status := .noClaim, detail := 0#8, results := [] })) t) ∧
     (∀ h, c.len = n → c.needsClaim = true → s.agent.claim = some h →
       ¬ (c.src = h.holder ∧ c.arrival = some h.line) →
       ∃ t, exec i s = .next t ∧
         Follows (afterReply i (s.replied c
           { status := .claimed, detail := 0#8
             results := [hiByte h.holder, loByte h.holder, numByte h.line.val] })) t)) ∧
   (∀ (s : State) (c : Cmd), s.rstnLow = false → s.command = some c → commandLength c.code = none →
     c.replay s.agent = none →
     ∃ t, exec .unknownCommand s = .next t ∧
       Follows (s.replied c { status := .unknown, detail := 0#8, results := [] }) t) ∧
   (∀ code : Byte, commandLength code = none ↔ code = 0#8 ∨ 0x16#8 < code) ∧
   (∀ n : Fin 22, commandLength (BitVec.ofNat 8 (n.val + 1)) =
     [2, 2, 2, 4, 14, 3, 2, 4, 3, 22, 3, 4, 6, 4, 4, 2, 2, 11, 2, 8, 3, 2][n.val]?) ∧
   (∀ c : Cmd, c.needsClaim = true ↔
     c.code ∈ [0x03#8, 0x05#8, 0x06#8, 0x07#8, 0x08#8, 0x0A#8, 0x0B#8, 0x0D#8, 0x0E#8, 0x12#8,
       0x14#8, 0x16#8] ∨ (c.code = 0x0F#8 ∧ byteAt c.ops 1 ≠ 0#8)) ∧
   (∀ (c : Cmd) (a : Agent), c.fromHolder a = true ↔
     ∃ h, a.claim = some h ∧ c.src = h.holder ∧ c.arrival = some h.line) ∧
   (∀ (c : Cmd) (a : Agent) (b : List Byte), c.replay a = some b ↔
     ∃ h e, a.claim = some h ∧ c.src = h.holder ∧ c.arrival = some h.line ∧ a.cache = some e ∧
       c.tag ≠ 0#8 ∧ c.code = e.code ∧ c.tag = e.tag ∧ b = e.reply)) ∧
  (∀ (i : Instr) (s : State) (c : Cmd) (h : Claim) (e : CacheEntry), s.rstnLow = false →
     commandCode? i = some c.code → s.command = some c → s.agent.claim = some h →
     c.src = h.holder → c.arrival = some h.line → s.agent.cache = some e → c.tag ≠ 0#8 →
     c.code = e.code → c.tag = e.tag →
     ∃ t, exec i s = .next t ∧
       Follows (afterReply i (offerReply
         (({ s with agent := { s.agent with lease := some s.agent.leaseSetting } }).modFrame c.slot
           (fun f =>
             { dest := f.src, src := s.route.relayAddr, kind := .mreply, confirm := false,
               seq := f.seq, len := 2 + e.reply.length, payload := [c.code, c.tag] ++ e.reply })))) t)

/-- IDENT, POOL-READ, RELAY-READ and NOTICE-READ report what stands, in the layouts of Table 12-4, and
change nothing but the holder's lease and cache (R148, R150, R151). LINE-READ, POLL-READ and ROUTE-READ
report one line, one poll entry or one route entry, or refuse the operand out of range by its number (R74,
R130, R149). -/
def Obligations.ReadingCommandsReport : Prop :=
  (∀ (s : State) (c : Cmd), Ready s c →
     (c.code = 0x01#8 → ∃ t, exec .ident s = .next t ∧
       Follows (s.answeredOk c
         { status := .ok, detail := 0#8
           results :=
             [0x32#8, 0x08#8, 1#8, hiByte s.route.relayAddr, loByte s.route.relayAddr,
              hiByte s.route.generation, loByte s.route.generation, 0x80#8] }) t) ∧
     (c.code = 0x10#8 → ∃ t, exec .poolRead s = .next t ∧
       Follows (s.answeredOk c
         { status := .ok, detail := 0#8
           results :=
             [numByte s.pool.free.length, if s.pool.state = .normal then 0#8 else 1#8,
              s.pool.waiters] ++
             [0, 1, 2, 3, 4, 5, 6, 7].flatMap (fun k : Line =>
               [numByte (s.line k).normalQ.length, numByte (s.line k).urgentQ.length]) ++
             [numByte s.agent.queue.length] }) t) ∧
     (c.code = 0x11#8 → ∃ t, exec .relayRead s = .next t ∧
       Follows (s.answeredOk c
         { status := .ok, detail := 0#8
           results :=
             [hiByte s.route.relayAddr, loByte s.route.relayAddr,
              match s.route.defaultAction with
              | .line k => numByte k.val
              | .discard => 8#8,
              s.route.broadcastSet, numByte s.pool.reserve, numByte s.pool.lowMark,
              numByte s.pool.highMark, numByte s.agent.leaseSetting] }) t) ∧
     (c.code = 0x13#8 → ∃ t, exec .noticeRead s = .next t ∧
       Follows (s.answeredOk c
         { status := .ok, detail := 0#8
           results :=
             (List.finRange 8).flatMap (fun n =>
               let r := s.notice.records.get n
               [if r.pending then 1#8 else 0#8, r.count,
                match r.line with
                | some k => numByte k.val
                | none => 0xFF#8] ++
               match r.value with
               | some v => [hiByte v, loByte v]
               | none => [0xFF#8, 0xFF#8]) ++
             [s.notice.mask, hiByte s.notice.address, loByte s.notice.address] ++
             numBytes2 s.notice.interval ++
             [if s.notice.state = .idle then 0#8 else 1#8, numByte s.notice.seq.toNat] }) t)) ∧
  (∀ (s : State) (c : Cmd), Ready s c →
     (c.code = 0x09#8 →
       (∀ k : Line, (byteAt c.ops 0).toNat = k.val → ∃ t, exec .lineRead s = .next t ∧
         Follows (s.answeredOk c
           { status := .ok, detail := 0#8
             results :=
               let cfg := (s.line k).config
               let mode : Byte := match cfg.mode with
                 | .off => 0#8
                 | .direct => 1#8
                 | .polled => 2#8
               let parity : Byte := match cfg.parity with
                 | .none => 0#8
                 | .even => 1#8
                 | .odd => 2#8
               let two (n : Nat) : List Byte := [numByte (n / 256), numByte n]
               [mode] ++ two cfg.divisor ++
               [parity, numByte cfg.stopBits, numByte cfg.gapLimit, numByte cfg.turnaround,
                if cfg.mgmtAccepted then 1#8 else 0#8, numByte cfg.quota] ++ two cfg.confirmTimeout ++
               [numByte cfg.retryLimit, numByte cfg.replyWindow, numByte cfg.missLimit,
                numByte cfg.burstLimit, numByte cfg.recheckCycles, numByte cfg.pollPause] ++
               [match (s.line k).state with
                | .off => 0#8
                | .active => 1#8
                | .fault => 2#8, numByte (s.line k).normalQ.length,
                numByte (s.line k).urgentQ.length,
                if (s.line k).await = .empty then 0#8 else 1#8,
                if (s.line k).reservation = none then 0#8 else 1#8] }) t) ∧
       (7 < (byteAt c.ops 0).toNat → ∃ t, exec .lineRead s = .next t ∧
         Follows (s.replied c { status := .operand, detail := 1#8, results := [] }) t)) ∧
     (c.code = 0x0C#8 →
       (∀ k : Line, (byteAt c.ops 0).toNat = k.val → (byteAt c.ops 1).toNat ≤ 15 →
         ∃ t, exec .pollRead s = .next t ∧
           Follows (s.answeredOk c
             { status := .ok, detail := 0#8
               results :=
                 [numByte (s.line k).pollList.length, numByte (s.line k).pollPos,
                  numByte (s.line k).cycle.toNat] ++
                 match (s.line k).pollList[(byteAt c.ops 1).toNat]? with
                 | some e =>
                   [hiByte e.node, loByte e.node,
                    match e.presence with
                    | .present => 0#8
                    | .suspect => 1#8
                    | .absent => 2#8, numByte e.miss]
                 | none => [0#8, 0#8, 0xFF#8, 0#8] }) t) ∧
       (7 < (byteAt c.ops 0).toNat → ∃ t, exec .pollRead s = .next t ∧
         Follows (s.replied c { status := .operand, detail := 1#8, results := [] }) t) ∧
       ((byteAt c.ops 0).toNat ≤ 7 → 15 < (byteAt c.ops 1).toNat →
         ∃ t, exec .pollRead s = .next t ∧
           Follows (s.replied c { status := .operand, detail := 2#8, results := [] }) t)) ∧
     (c.code = 0x04#8 →
       (∀ n : Fin 64, (byteAt c.ops 0).toNat ≤ 1 → (byteAt c.ops 1).toNat = n.val →
         ∃ t, exec .routeRead s = .next t ∧
           Follows (s.answeredOk c
             { status := .ok, detail := 0#8
               results :=
                 let e := if byteAt c.ops 0 = 0#8 then s.route.active.get n
                   else s.route.shadow.get n
                 [if e.valid then 1#8 else 0#8, hiByte e.low, loByte e.low, hiByte e.high,
                  loByte e.high,
                  match e.target with
                  | .line k => numByte k.val
                  | .discard => 8#8,
                  match e.rewrite with
                  | .keep => 0#8
                  | .shift => 1#8,
                  hiByte e.base, loByte e.base, e.arrivals, if e.hairpin then 1#8 else 0#8] ++
                 [hiByte s.route.generation, loByte s.route.generation] }) t) ∧
       (1 < (byteAt c.ops 0).toNat → ∃ t, exec .routeRead s = .next t ∧
         Follows (s.replied c { status := .operand, detail := 1#8, results := [] }) t) ∧
       ((byteAt c.ops 0).toNat ≤ 1 → 63 < (byteAt c.ops 1).toNat →
         ∃ t, exec .routeRead s = .next t ∧
           Follows (s.replied c { status := .operand, detail := 2#8, results := [] }) t)))

/-- CLAIM (R140): a FREE claim is granted to the source and arrival line, the holder's is renewed, another
station's is reported; the lease starts and the cache takes the reply. RELEASE and LEASE_EXPIRY end the
claim: FREE, lease stopped, cache emptied, shadow reloaded from the active table; a lapse gives CLAIM-LAPSED
with the former holder's line and address (R141, R142). -/
def Obligations.ClaimBeginsAndEnds : Prop :=
  (∀ (s : State) (c : Cmd), Ready s c → c.code = 0x02#8 →
     let ok : Reply :=
       { status := .ok, detail := 0#8, results := [numByte s.agent.leaseSetting] }
     (∀ k, s.agent.claim = none → c.arrival = some k → ∃ t, exec .claim s = .next t ∧
       Follows (({ s with agent := { s.agent with
         claim := some { holder := c.src, line := k }
         lease := some s.agent.leaseSetting
         cache := some { code := c.code, tag := c.tag
                         reply := [0#8, 0#8, numByte s.agent.leaseSetting] } } }).replied c ok) t) ∧
     (∀ h, s.agent.claim = some h → c.src = h.holder → c.arrival = some h.line →
       ∃ t, exec .claim s = .next t ∧
         Follows (({ s with agent := { s.agent with
           lease := some s.agent.leaseSetting
           cache := some { code := c.code, tag := c.tag
                           reply := [0#8, 0#8, numByte s.agent.leaseSetting] } } }).replied c ok) t) ∧
     (∀ h, s.agent.claim = some h → ¬ (c.src = h.holder ∧ c.arrival = some h.line) →
       ∃ t, exec .claim s = .next t ∧
         Follows (s.replied c
           { status := .claimed, detail := 0#8
             results := [hiByte h.holder, loByte h.holder, numByte h.line.val] }) t)) ∧
  (∀ s : State, s.rstnLow = false →
     let freed : State :=
       { s with
         agent := { s.agent with claim := none, lease := none, cache := none }
         route := { s.route with shadow := s.route.active } }
     (∀ c, Ready s c → c.code = 0x03#8 → ∃ t, exec .release s = .next t ∧
       Follows (freed.replied c { status := .ok, detail := 0#8, results := [] }) t) ∧
     (∀ h n, s.agent.claim = some h → s.agent.lease = some n →
       ∃ t, exec .leaseExpiry s = .next t ∧
         Follows (noteEvent .claimLapsed (some h.line) (some h.holder) freed) t ∧
         t.route.shadow = s.route.active ∧ t.agent.claim = none ∧ t.agent.lease = none ∧
         t.agent.cache = none))

/-- RESTART and WARM_RESTART (R145, R162): the RESTART is answered OK and the agent becomes RESTART-PENDING
with the reply to be sent; once the reply is gone the restart is taken, which is also what the reply's
transmit completion brings. That the turn of a POLLED line that the restart makes ACTIVE comes after the NOTICE of
RESTARTED, within `Follows`, is the model's choice (log entry 5). -/
def Obligations.RestartFollowsItsReply : Prop :=
  (∀ (s : State) (c : Cmd) (j : Line), Ready s c → c.code = 0x16#8 →
    (s.slot c.slot).arrival = some j → (s.line j).state = .active →
    ∃ t, exec .restart s = .next t ∧
      Follows (({ s with agent := { s.agent with
        state := .restartPending, restartReply := some c.slot } }).answeredOk c
          { status := .ok, detail := 0#8, results := [] }) t) ∧
  (∀ (s : State) (c : Cmd) (j : Line), Ready s c → c.code = 0x16#8 →
    (s.slot c.slot).arrival = some j → (s.line j).state ≠ .active →
    ∃ t, exec .restart s = .next t ∧
      Follows (warmRestart (({ s with agent := { s.agent with
        state := .restartPending, restartReply := some c.slot } }).answeredOk c
          { status := .ok, detail := 0#8, results := [] })) t) ∧
  (∀ s : State, s.rstnLow = false → s.agent.state = .restartPending → s.agent.restartReply = none →
    ∃ t, exec .warmRestart s = .next t ∧ Follows (warmRestart s) t) ∧
  (∀ (s : State) (k : Line) (i : SlotIx), s.rstnLow = false → (s.line k).state = .active →
    (s.line k).tp = some (.urgent i) → s.agent.state = .restartPending →
    s.agent.restartReply = some i → ∃ u t : State, exec (.transmitCompletion k) s = .next t ∧
      Follows (warmRestart u) t ∧ u.agent.restartReply = none ∧
      u.globals = s.globals ∧ ∀ j, u.port j = s.port j)

/-- The warm restart (R55, R90, R145, R171, R176): every line whose mode is not OFF is ACTIVE, empty, without a
timer, and holds the slot of its rank among them, the highest-numbered of them being the line last granted, or
line 7 when there is none; on a POLLED line presence is reset; claim, cache, every counter and the notices are
cleared; configuration, active table, relay settings and notice settings are kept; RESTARTED is raised, and where
the address and mask let it, a NOTICE with sequence 1 is built in the next slot, which alone may stand in an
urgent queue or be counted. That a receiver inside a character takes no end of it after the restart (`inChar` of
`Receiver.fresh` is false) is the model's choice (log entry 6). -/
def Obligations.WarmRestartClearsAndKeeps : Prop :=
  ∀ s : State, SettingsInRange s → OffLinesEmpty s →
    let t := warmRestart s
    let up := allLines.filter (fun k => decide ((s.line k).config.mode ≠ .off))
    let emitted : Bool := decide (s.notice.address ≠ 0#16) && !s.notice.mask.getLsbD 0
    let verdict := decideRelay s.route s.notice.address
    (∀ k, (t.line k).config = (s.line k).config ∧ (∀ c, (t.line k).counter c = 0#16) ∧
      (t.line k).pollList.map PollEntry.node = (s.line k).pollList.map PollEntry.node) ∧
    (∀ k, (s.line k).config.mode ≠ .off →
      (t.line k).state = .active ∧ (t.line k).rx = Receiver.fresh ∧ (t.line k).turnaround = none ∧
      (t.line k).faultTimer = none ∧ (t.line k).recovery = none ∧ (t.line k).tp = none ∧
      (t.line k).normalQ = [] ∧ (t.line k).await = .empty ∧ (t.line k).confirmTimer = none ∧
      (t.line k).pendingConf = [] ∧ (t.line k).memo = [] ∧ (t.line k).window = .closed ∧
      (t.line k).windowTimer = none ∧ (t.line k).pauseTimer = none) ∧
    (∀ k, (s.line k).config.mode = .polled →
      (t.line k).pollList =
        (s.line k).pollList.map (fun e => { e with presence := .present, miss := 0 }) ∧
      (t.line k).pollPos = 0 ∧ (t.line k).cycle = 0#4 ∧ (t.line k).burst = 0) ∧
    (∀ k, (s.line k).config.mode = .off →
      t.line k = { s.line k with counters := Vector.replicate 16 0#16 }) ∧
    (∀ (n : Nat) (k : Line), up[n]? = some k →
      ((t.line k).reservation.map Fin.val) = some n ∧
      ∀ i : SlotIx, i.val = n → (t.slot i).holders = 1 ∧ (t.slot i).arrival = some k) ∧
    (∀ i, (t.slot i).retry = 0) ∧
    (∀ i : SlotIx, up.length < i.val ∨ (i.val = up.length ∧ emitted = false) →
      (t.slot i).holders = 0) ∧
    (emitted = false → t.pool.free = allSlots.drop up.length) ∧
    (∀ j d, emitted = true → verdict = .forward j d → (s.line j).config.mode ≠ .off →
      t.pool.free = allSlots.drop (up.length + 1) ∧
      (t.line j).urgentQ.map Fin.val = [up.length] ∧
      ∀ i : SlotIx, i.val = up.length → t.slot i =
        { frame :=
            { dest := d, src := s.route.relayAddr, kind := .notice, confirm := false, seq := 1#4,
              len := 6, payload := [1#8, 0#8, 1#8, 0xFF#8, 0xFF#8, 0xFF#8] }
          arrival := none, holders := 1, retry := 0 }) ∧
    (emitted = true → (∀ j d, verdict = .forward j d → (s.line j).config.mode = .off) →
      t.pool.free = allSlots.drop (up.length + 1) ++ (allSlots.drop up.length).take 1) ∧
    (∀ j, emitted = false ∨ (∀ d, verdict = .forward j d → (s.line j).config.mode = .off) →
      (t.line j).urgentQ = []) ∧
    (∀ c : RelayCounter, t.route.counter c =
      if emitted = true ∧
          (c = .discarded ∧ verdict = .discard ∨ c = .unrouted ∧ verdict = .unrouted) then 1#16
      else 0#16) ∧
    t.pool.waiters = 0#8 ∧ t.pool.state = .normal ∧ t.pool.noticeWaiting = false ∧
    (∀ k, up.getLast? = some k → t.pool.lastGranted = k) ∧ (up = [] → t.pool.lastGranted = 7) ∧
    t.pool.reserve = s.pool.reserve ∧
    t.pool.lowMark = s.pool.lowMark ∧ t.pool.highMark = s.pool.highMark ∧
    t.agent.state = .idle ∧ t.agent.queue = [] ∧ t.agent.current = none ∧
    t.agent.restartReply = none ∧ t.agent.claim = none ∧
    t.agent.lease = none ∧ t.agent.cache = none ∧ t.agent.leaseSetting = s.agent.leaseSetting ∧
    t.route.active = s.route.active ∧ t.route.shadow = s.route.active ∧
    t.route.generation = s.route.generation ∧ t.route.relayAddr = s.route.relayAddr ∧
    t.route.defaultAction = s.route.defaultAction ∧ t.route.broadcastSet = s.route.broadcastSet ∧
    t.notice.records.get 0 = { pending := true, count := 1#8, line := none, value := none } ∧
    (∀ q : NoticeKind, q ≠ .restarted → t.notice.records.get q.code =
      { pending := false, count := 0#8, line := none, value := none }) ∧
    t.notice.mask = s.notice.mask ∧ t.notice.address = s.notice.address ∧
    t.notice.interval = s.notice.interval ∧ t.notice.building = none ∧
    (emitted = true → t.notice.state = .outstanding ∧ t.notice.seq = 1#4 ∧
      t.notice.listed = [(.restarted, 1#8)] ∧ t.notice.timer = some s.notice.interval) ∧
    (emitted = false → t.notice.state = .idle ∧ t.notice.seq = 0#4 ∧ t.notice.listed = [] ∧
      t.notice.timer = none)

/-! ## Management commands that change the relay -/

/-- ROUTE-WRITE, ROUTE-CLEAR and ROUTE-COPY change the shadow table alone, as their operands say, or refuse
the first operand out of range (R72, R73). -/
def Obligations.ShadowEditingCommands : Prop :=
  ∀ (s : State) (c : Cmd), Ready s c →
    let ok : Reply := { status := .ok, detail := 0#8, results := [] }
    let bad (n : Byte) : Reply := { status := .operand, detail := n, results := [] }
    let o := byteAt c.ops
    let withShadow (t : RouteTable) : State := { s with route := { s.route with shadow := t } }
    (c.code = 0x05#8 →
      (∀ (n : Fin 64) (target : Target), (o 0).toNat = n.val → (o 1).toNat ≤ 1 →
        (target = .discard ∧ o 6 = 8#8 ∨ ∃ k : Line, target = .line k ∧ (o 6).toNat = k.val) →
        (o 7).toNat ≤ 1 → (o 11).toNat ≤ 1 →
        ∃ t, exec .routeWrite s = .next t ∧
          Follows ((withShadow (s.route.shadow.set n
            { valid := decide (o 1 = 1#8), low := word16 (o 2) (o 3), high := word16 (o 4) (o 5),
              target := target, rewrite := if o 7 = 0#8 then .keep else .shift,
              base := word16 (o 8) (o 9), arrivals := o 10,
              hairpin := decide (o 11 = 1#8) })).answeredOk c ok) t) ∧
      (63 < (o 0).toNat → ∃ t, exec .routeWrite s = .next t ∧ Follows (s.replied c (bad 1#8)) t) ∧
      ((o 0).toNat ≤ 63 → 1 < (o 1).toNat →
        ∃ t, exec .routeWrite s = .next t ∧ Follows (s.replied c (bad 2#8)) t) ∧
      ((o 0).toNat ≤ 63 → (o 1).toNat ≤ 1 → 8 < (o 6).toNat →
        ∃ t, exec .routeWrite s = .next t ∧ Follows (s.replied c (bad 5#8)) t) ∧
      ((o 0).toNat ≤ 63 → (o 1).toNat ≤ 1 → (o 6).toNat ≤ 8 → 1 < (o 7).toNat →
        ∃ t, exec .routeWrite s = .next t ∧ Follows (s.replied c (bad 6#8)) t) ∧
      ((o 0).toNat ≤ 63 → (o 1).toNat ≤ 1 → (o 6).toNat ≤ 8 → (o 7).toNat ≤ 1 →
        1 < (o 11).toNat →
        ∃ t, exec .routeWrite s = .next t ∧ Follows (s.replied c (bad 9#8)) t)) ∧
    (c.code = 0x06#8 →
      (∀ n : Fin 64, (o 0).toNat = n.val → ∃ t, exec .routeClear s = .next t ∧
        Follows ((withShadow (s.route.shadow.set n
          { s.route.shadow.get n with valid := false })).answeredOk c ok) t) ∧
      (o 0 = 0xFF#8 → ∃ t, exec .routeClear s = .next t ∧
        Follows ((withShadow (s.route.shadow.map (fun e => { e with valid := false }))).answeredOk
          c ok) t) ∧
      (63 < (o 0).toNat → o 0 ≠ 0xFF#8 → ∃ t, exec .routeClear s = .next t ∧
        Follows (s.replied c (bad 1#8)) t)) ∧
    (c.code = 0x07#8 → ∃ t, exec .routeCopy s = .next t ∧
      Follows ((withShadow s.route.active).answeredOk c ok) t)

/-- ROUTE-COMMIT (R75, R76, R77): another generation gives GENERATION; the first valid shadow entry with low
above high or a SHIFT beyond FFFFh gives TABLE with its index; otherwise the shadow becomes active and the
generation is incremented modulo 65536. -/
def Obligations.CommitChecksThenReplaces : Prop :=
  ∀ (s : State) (c : Cmd), Ready s c → c.code = 0x08#8 →
    let g := s.route.generation
    let fails (e : RouteEntry) : Prop :=
      e.valid = true ∧ (e.high.toNat < e.low.toNat ∨
        (e.rewrite = .shift ∧ 0xFFFF < e.base.toNat + (e.high.toNat - e.low.toNat)))
    (word16 (byteAt c.ops 0) (byteAt c.ops 1) ≠ g → ∃ t, exec .routeCommit s = .next t ∧
      Follows (s.replied c
        { status := .generation, detail := 0#8, results := [hiByte g, loByte g] }) t) ∧
    (∀ n : Fin 64, word16 (byteAt c.ops 0) (byteAt c.ops 1) = g → fails (s.route.shadow.get n) →
      (∀ m : Fin 64, m < n → ¬ fails (s.route.shadow.get m)) →
      ∃ t, exec .routeCommit s = .next t ∧
        Follows (s.replied c
          { status := .table, detail := numByte n.val, results := [hiByte g, loByte g] }) t) ∧
    (word16 (byteAt c.ops 0) (byteAt c.ops 1) = g → (∀ n : Fin 64, ¬ fails (s.route.shadow.get n)) →
      ∃ t, exec .routeCommit s = .next t ∧
        Follows (({ s with route := { s.route with
            active := s.route.shadow, generation := g + 1#16 } }).answeredOk c
          { status := .ok, detail := 0#8
            results := [hiByte (g + 1#16), loByte (g + 1#16)] }) t)

/-- POLL-WRITE and POLL-REMOVE (R127, R128): the checks in their order, the entry replaced, appended or
removed, and the poll position kept on the same node. That the turn which may follow (R113, R127) is taken after
the reply is offered is the model's choice (log entry 5). -/
def Obligations.PollListCommands : Prop :=
  (∀ (s : State) (c : Cmd) (i : Instr), Ready s c → 7 < (byteAt c.ops 0).toNat →
    (c.code = 0x0D#8 ∧ i = .pollWrite) ∨ (c.code = 0x0E#8 ∧ i = .pollRemove) →
    ∃ t, exec i s = .next t ∧
      Follows (s.replied c { status := .operand, detail := 1#8, results := [] }) t) ∧
  ∀ (s : State) (c : Cmd) (k : Line), Ready s c → (byteAt c.ops 0).toNat = k.val →
    let n := (byteAt c.ops 1).toNat
    let node := word16 (byteAt c.ops 2) (byteAt c.ops 3)
    let es := (s.line k).pollList
    let refused (i : Instr) (st : Status) (d : Byte) : Prop := ∃ t, exec i s = .next t ∧
      Follows (s.replied c { status := st, detail := d, results := [] }) t
    let elsewhere : Prop := ∃ m, m ≠ n ∧ ∃ e, es[m]? = some e ∧ e.node = node
    (c.code = 0x0D#8 →
      (node = 0#16 ∨ node = 0xFFFF#16 → refused .pollWrite .operand 3#8) ∧
      (node ≠ 0#16 → node ≠ 0xFFFF#16 → es.length < n → refused .pollWrite .operand 2#8) ∧
      (node ≠ 0#16 → node ≠ 0xFFFF#16 → n ≤ es.length → elsewhere →
        refused .pollWrite .operand 3#8) ∧
      (node ≠ 0#16 → node ≠ 0xFFFF#16 → n = es.length → 16 ≤ n → ¬ elsewhere →
        refused .pollWrite .full 0#8) ∧
      (node ≠ 0#16 → node ≠ 0xFFFF#16 → n < es.length → ¬ elsewhere →
        ∃ t, exec .pollWrite s = .next t ∧
          Follows ((s.setLine k { s.line k with
            pollList := es.set n { node := node, presence := .present, miss := 0 } }).answeredOk c
            { status := .ok, detail := 0#8, results := [numByte es.length] }) t) ∧
      (node ≠ 0#16 → node ≠ 0xFFFF#16 → n = es.length → n < 16 → ¬ elsewhere →
        ∃ t, exec .pollWrite s = .next t ∧
          Follows ((s.setLine k { s.line k with
            pollList := es ++ [{ node := node, presence := .present, miss := 0 }] }).answeredOk c
            { status := .ok, detail := 0#8, results := [numByte (es.length + 1)] }) t)) ∧
    (c.code = 0x0E#8 →
      (es.length ≤ n → refused .pollRemove .operand 2#8) ∧
      (n < es.length → ∃ t, exec .pollRemove s = .next t ∧
        Follows ((s.setLine k { s.line k with
          pollList := es.take n ++ es.drop (n + 1)
          pollPos := if n < (s.line k).pollPos then (s.line k).pollPos - 1
            else (s.line k).pollPos }).answeredOk c
          { status := .ok, detail := 0#8, results := [numByte (es.length - 1)] }) t))

/-- COUNT-READ (R156): the selected counters are reported in index order and, when the clear flag is set,
set to 0 after they are taken; a selector above 8 is refused. An increment of a counter (R37, R71, R157): one
more below 65535, no change at 65535; the increment that reaches 65535 gives COUNTER-FULL with the line, if
any, and the counter's index; no other counter changes. -/
def Obligations.CountReadReportsAndClears : Prop :=
  (∀ (s : State) (c : Cmd), Ready s c → c.code = 0x0F#8 →
    let clear := byteAt c.ops 1 ≠ 0#8
    (∀ k : Line, (byteAt c.ops 0).toNat = k.val →
      let r : Reply :=
        { status := .ok, detail := 0#8
          results := (List.finRange 16).flatMap (fun n =>
            [hiByte ((s.line k).counters.get n), loByte ((s.line k).counters.get n)]) }
      ∃ t, exec .countRead s = .next t ∧
        (clear → Follows ((s.setLine k { s.line k with
          counters := Vector.replicate 16 0#16 }).answeredOk c r) t) ∧
        (¬ clear → Follows (s.answeredOk c r) t)) ∧
    ((byteAt c.ops 0) = 8#8 →
      let r : Reply :=
        { status := .ok, detail := 0#8
          results := (List.finRange 7).flatMap (fun n =>
            [hiByte (s.route.counters.get n), loByte (s.route.counters.get n)]) }
      ∃ t, exec .countRead s = .next t ∧
        (clear → Follows (({ s with route := { s.route with
          counters := Vector.replicate 7 0#16 } }).answeredOk c r) t) ∧
        (¬ clear → Follows (s.answeredOk c r) t)) ∧
    (8 < (byteAt c.ops 0).toNat → ∃ t, exec .countRead s = .next t ∧
      Follows (s.replied c { status := .operand, detail := 1#8, results := [] }) t)) ∧
  ((∀ v : BitVec 16, (v.toNat < 65535 → (satInc v).toNat = v.toNat + 1) ∧
     satInc 0xFFFF#16 = 0xFFFF#16) ∧
   (∀ (s : State) (k : Line) (c : LineCounter),
     let v := (s.line k).counter c
     let u := s.setLine k { s.line k with
       counters := (s.line k).counters.set c.index (satInc v) }
     (v.toNat = 65534 → countLine k c s =
       noteEvent .counterFull (some k) (some (BitVec.ofNat 16 c.index.val)) u) ∧
     (v.toNat ≠ 65534 → countLine k c s = u) ∧
     ((countLine k c s).line k).counter c = satInc v ∧
     (∀ d, d ≠ c → ((countLine k c s).line k).counter d = (s.line k).counter d) ∧
     ∀ j d, j ≠ k → ((countLine k c s).line j).counter d = (s.line j).counter d) ∧
   (∀ (s : State) (c : RelayCounter),
     let v := s.route.counter c
     let u : State := { s with route := { s.route with
       counters := s.route.counters.set c.index (satInc v) } }
     (v.toNat = 65534 → countRelay c s =
       noteEvent .counterFull none (some (BitVec.ofNat 16 c.index.val)) u) ∧
     (v.toNat ≠ 65534 → countRelay c s = u) ∧ u.route.counter c = satInc v ∧
     ∀ d, d ≠ c → u.route.counter d = s.route.counter d) ∧
   [LineCounter.rxGood, .rxChar, .rxGap, .rxLength, .rxCheck, .rxNoslot, .rxBreak, .rxLate, .rxDup,
     .txSent, .txRetry, .txReturn, .qRefused, .pollMiss, .confStale, .confShed].map
     LineCounter.index = List.finRange 16 ∧
   [RelayCounter.invalid, .unrouted, .filtered, .hairpin, .discarded, .bcastShed, .agentFull].map
     RelayCounter.index = List.finRange 7)

/-- RELAY-SET (R158, R159, R49): the values that would stand are tested in operand order; when they pass,
the named ones are written, waiters are granted and the pool state evaluated, and the reply carries the
relay address now in force. -/
def Obligations.RelaySetTestsThenWrites : Prop :=
  ∀ (s : State) (c : Cmd) (target : Target), Ready s c → c.code = 0x12#8 →
    let o := byteAt c.ops
    let named (n : Nat) : Bool := (o 0).getLsbD n
    let addr := if named 0 then word16 (o 1) (o 2) else s.route.relayAddr
    let bcast := if named 2 then o 4 else s.route.broadcastSet
    let reserve := if named 3 then (o 5).toNat else s.pool.reserve
    let low := if named 4 then (o 6).toNat else s.pool.lowMark
    let high := if named 5 then (o 7).toNat else s.pool.highMark
    let lease := if named 6 then (o 8).toNat else s.agent.leaseSetting
    let ok2 : Prop := named 0 = true → addr ≠ 0#16 ∧ addr ≠ 0xFFFF#16
    let ok3 : Prop := named 1 = true → (o 3).toNat ≤ 8
    let ok5 : Prop := 1 ≤ reserve ∧ reserve ≤ 8
    let ok6 : Prop := reserve + 1 ≤ low ∧ low ≤ 64
    let ok7 : Prop := low < high ∧ high ≤ 96
    let ok8 : Prop := named 6 = true → 5 ≤ lease
    let refused (n : Byte) : Prop := ∃ t, exec .relaySet s = .next t ∧
      Follows (s.replied c { status := .operand, detail := n, results := [] }) t
    (¬ ok2 → refused 2#8) ∧ (ok2 → ¬ ok3 → refused 3#8) ∧
    (ok2 → ok3 → ¬ ok5 → refused 5#8) ∧ (ok2 → ok3 → ok5 → ¬ ok6 → refused 6#8) ∧
    (ok2 → ok3 → ok5 → ok6 → ¬ ok7 → refused 7#8) ∧
    (ok2 → ok3 → ok5 → ok6 → ok7 → ¬ ok8 → refused 8#8) ∧
    (ok2 → ok3 → ok5 → ok6 → ok7 → ok8 →
      (named 1 = true →
        target = .discard ∧ o 3 = 8#8 ∨ ∃ k : Line, target = .line k ∧ (o 3).toNat = k.val) →
      (named 1 = false → target = s.route.defaultAction) →
      ∃ t, exec .relaySet s = .next t ∧
        Follows ((evaluatePool (grantWaiters
          { s with
            route := { s.route with
              relayAddr := addr, defaultAction := target, broadcastSet := bcast }
            pool := { s.pool with reserve := reserve, lowMark := low, highMark := high }
            agent := { s.agent with leaseSetting := lease } })).answeredOk c
          { status := .ok, detail := 0#8, results := [hiByte addr, loByte addr] }) t)

/-- NOTICE-SET (R160, R165, R166): an address of FFFFh or an interval outside 100 to 5000 ms is refused;
otherwise the named values are written, a waiting request whose condition has ended is withdrawn, and the
emission test follows the reply. NOTICE-ACK (R161, R169): a sequence above 15 is refused, another than that
in force is STALE; the one in force subtracts the listed counts, a record left at 0 being no longer pending,
empties the listed set, makes the unit IDLE with its timer stopped, and the emission test follows the reply.
-/
def Obligations.NoticeSettingsAndAcks : Prop :=
  (∀ (s : State) (c : Cmd), Ready s c → c.code = 0x14#8 →
     let o := byteAt c.ops
     let named (n : Nat) : Bool := (o 0).getLsbD n
     let ok2 : Prop := named 0 = true → word16 (o 1) (o 2) ≠ 0xFFFF#16
     let ok4 : Prop := named 2 = true →
       100 ≤ (word16 (o 4) (o 5)).toNat ∧ (word16 (o 4) (o 5)).toNat ≤ 5000
     let refused (n : Byte) : Prop := ∃ t, exec .noticeSet s = .next t ∧
       Follows (emissionTest (s.replied c { status := .operand, detail := n, results := [] })) t
     (¬ ok2 → refused 2#8) ∧ (ok2 → ¬ ok4 → refused 4#8) ∧
     (ok2 → ok4 → ∃ t, exec .noticeSet s = .next t ∧
       Follows (emissionTest ((withdrawIfEnded
         { s with notice := { s.notice with
             address := if named 0 then word16 (o 1) (o 2) else s.notice.address
             mask := if named 1 then o 3 else s.notice.mask
             interval := if named 2 then (word16 (o 4) (o 5)).toNat
               else s.notice.interval } }).answeredOk c
         { status := .ok, detail := 0#8, results := [] })) t)) ∧
  (∀ (s : State) (c : Cmd), Ready s c → c.code = 0x15#8 → NoticesConsistent s →
     let q := byteAt c.ops 0
     (15 < q.toNat → ∃ t, exec .noticeAck s = .next t ∧
       Follows (emissionTest (s.replied c
         { status := .operand, detail := 1#8, results := [] })) t) ∧
     (q.toNat ≤ 15 → q.toNat ≠ s.notice.seq.toNat → ∃ t, exec .noticeAck s = .next t ∧
       Follows (emissionTest (s.replied c
         { status := .stale, detail := 0#8, results := [] })) t) ∧
     (q.toNat = s.notice.seq.toNat →
       ∃ (records : Vector NoticeRecord 8) (t : State),
         (∀ p ∈ s.notice.listed,
           let r := s.notice.records.get p.1.code
           records.get p.1.code =
             { pending := decide (r.count - p.2 ≠ 0#8), count := r.count - p.2,
               line := r.line, value := r.value }) ∧
         (∀ k : NoticeKind, (∀ p ∈ s.notice.listed, p.1 ≠ k) →
           records.get k.code = s.notice.records.get k.code) ∧
         exec .noticeAck s = .next t ∧
         Follows (emissionTest ((withdrawIfEnded
           { s with notice := { s.notice with
               records := records, listed := [], state := .idle, timer := none } }).answeredOk c
           { status := .ok, detail := 0#8, results := [] })) t))

/-- LINE-SET's refusals, in their order (R15, R152, R153), with the ranges of Table 2-1, and the fields its
change set names. LINE-SET carried out (R20, R21, R87, R154): the record takes the named values; an OFF line
whose mode becomes DIRECT or POLLED comes up ACTIVE, requests a reservation and gives LINE-CHANGE; a line whose
mode becomes OFF goes down, holds nothing and gives LINE-CHANGE; a POLLED line that is idle and past turnaround
takes a turn before the reply when its burst limit, recheck cycles or poll pause is changed; the reply carries
the line's state. That a line coming up requests its reservation before LINE-CHANGE is given, that it takes its
first turn before the reply, and that a line going down is flushed and releases its reservation before LINE-CHANGE
is given, are the model's choices (log entry 5). -/
def Obligations.LineSetTestsThenCarriesOut : Prop :=
  ((∀ (s : State) (c : Cmd), Ready s c → c.code = 0x0A#8 → 7 < (byteAt c.ops 0).toNat →
     ∃ t, exec .lineSet s = .next t ∧
       Follows (s.replied c { status := .operand, detail := 1#8, results := [] }) t) ∧
   (∀ (s : State) (c : Cmd) (k : Line), Ready s c → c.code = 0x0A#8 →
     (byteAt c.ops 0).toNat = k.val →
     let new := (s.line k).config.changed c.ops
     let old := (s.line k).config
     let refused (st : Status) (d : Byte) : Prop := ∃ t, exec .lineSet s = .next t ∧
       Follows (s.replied c { status := st, detail := d, results := [] }) t
     let sameFormat : Prop :=
       new.divisor = old.divisor ∧ new.parity = old.parity ∧ new.stopBits = old.stopBits
     let named (n : Nat) : Prop := (word16 (byteAt c.ops 1) (byteAt c.ops 2)).getLsbD n = true
     let o (n : Nat) : Nat := (byteAt c.ops n).toNat
     let value : List Nat :=
       [o 3, 256 * o 4 + o 5, o 6, o 7, o 8, o 9, o 10, o 11, 256 * o 12 + o 13, o 14, o 15, o 16,
        o 17, o 18, o 19]
     let least : List Nat := [0, 1, 0, 1, 2, 0, 0, 1, 5, 0, 2, 1, 1, 1, 0]
     let most : List Nat := [2, 4095, 2, 2, 31, 15, 1, 120, 1000, 7, 255, 7, 15, 15, 255]
     let bad (n : Nat) : Prop :=
       named n ∧ (value.getD n 0 < least.getD n 0 ∨ most.getD n 0 < value.getD n 0)
     let good : Prop := ∀ n, n < 15 → ¬ bad n
     (∀ n, n < 15 → bad n → (∀ m, m < n → ¬ bad m) → refused .operand (numByte (n + 3))) ∧
     (good → (s.line k).state ≠ .off → ¬ sameFormat → refused .lineState 0#8) ∧
     (good → (s.line k).state ≠ .off → sameFormat → new.mode ≠ .off →
       new.mode ≠ old.mode → refused .lineState 0#8) ∧
     (good →
       (s.line k).state = .off ∨ (sameFormat ∧ (new.mode = .off ∨ new.mode = old.mode)) →
       ¬ (new.mode ≠ .off ∧ new.mgmtAccepted = true) →
       (∀ j, j ≠ k → ¬ ((s.line j).config.mode ≠ .off ∧ (s.line j).config.mgmtAccepted = true)) →
       refused .lineState 1#8) ∧
     (lineSetRefusal s k c.ops = none ↔ good ∧
       ((s.line k).state = .off ∨ (sameFormat ∧ (new.mode = .off ∨ new.mode = old.mode))) ∧
       ((new.mode ≠ .off ∧ new.mgmtAccepted = true) ∨
         ∃ j, j ≠ k ∧ (s.line j).config.mode ≠ .off ∧ (s.line j).config.mgmtAccepted = true))) ∧
   (∀ (cfg : LineConfig) (ops : List Byte),
     let named (n : Nat) : Bool := (word16 (byteAt ops 1) (byteAt ops 2)).getLsbD n
     let o (n : Nat) : Nat := (byteAt ops n).toNat
     (cfg.changed ops).divisor =
       (if named 1 then (word16 (byteAt ops 4) (byteAt ops 5)).toNat else cfg.divisor) ∧
     (cfg.changed ops).stopBits = (if named 3 then o 7 else cfg.stopBits) ∧
     (cfg.changed ops).gapLimit = (if named 4 then o 8 else cfg.gapLimit) ∧
     (cfg.changed ops).turnaround = (if named 5 then o 9 else cfg.turnaround) ∧
     (cfg.changed ops).quota = (if named 7 then o 11 else cfg.quota) ∧
     (cfg.changed ops).confirmTimeout =
       (if named 8 then (word16 (byteAt ops 12) (byteAt ops 13)).toNat else cfg.confirmTimeout) ∧
     (cfg.changed ops).retryLimit = (if named 9 then o 14 else cfg.retryLimit) ∧
     (cfg.changed ops).replyWindow = (if named 10 then o 15 else cfg.replyWindow) ∧
     (cfg.changed ops).missLimit = (if named 11 then o 16 else cfg.missLimit) ∧
     (cfg.changed ops).burstLimit = (if named 12 then o 17 else cfg.burstLimit) ∧
     (cfg.changed ops).recheckCycles = (if named 13 then o 18 else cfg.recheckCycles) ∧
     (cfg.changed ops).pollPause = (if named 14 then o 19 else cfg.pollPause) ∧
     (named 0 = false → (cfg.changed ops).mode = cfg.mode) ∧
     (named 0 = true →
       (o 3 = 0 → (cfg.changed ops).mode = .off) ∧ (o 3 = 1 → (cfg.changed ops).mode = .direct) ∧
       (o 3 = 2 → (cfg.changed ops).mode = .polled)) ∧
     (named 2 = false → (cfg.changed ops).parity = cfg.parity) ∧
     (named 2 = true →
       (o 6 = 0 → (cfg.changed ops).parity = .none) ∧ (o 6 = 1 → (cfg.changed ops).parity = .even) ∧
       (o 6 = 2 → (cfg.changed ops).parity = .odd)) ∧
     (named 6 = false → (cfg.changed ops).mgmtAccepted = cfg.mgmtAccepted) ∧
     (named 6 = true →
       (o 10 = 0 → (cfg.changed ops).mgmtAccepted = false) ∧
       (o 10 = 1 → (cfg.changed ops).mgmtAccepted = true)))) ∧
  (∀ (s : State) (c : Cmd) (k : Line), Ready s c → c.code = 0x0A#8 →
     (byteAt c.ops 0).toNat = k.val → lineSetRefusal s k c.ops = none →
     let new := (s.line k).config.changed c.ops
     let ok (b : Byte) : Reply := { status := .ok, detail := 0#8, results := [b] }
     let old := (s.line k).config
     let answers (u : State) (b : Byte) : Prop := ∃ t, exec .lineSet s = .next t ∧
       Follows (u.answeredOk c (ok b)) t
     let set := s.setLine k { s.line k with config := new }
     let idle : Prop := (s.line k).state = .active ∧ new.mode = .polled ∧ (s.line k).tp = none ∧
       (s.line k).rx.phase = .hunt ∧ (s.line k).window = .closed ∧ (s.line k).turnaround = none
     let turnFields : Prop := new.burstLimit ≠ old.burstLimit ∨
       new.recheckCycles ≠ old.recheckCycles ∨ new.pollPause ≠ old.pollPause
     (((s.line k).state = .off ↔ new.mode = .off) →
       (idle ∧ turnFields → answers (takeTurn k set) (s.line k).state.code) ∧
       (¬ (idle ∧ turnFields) → answers set (s.line k).state.code)) ∧
     ((s.line k).state = .off → new.mode ≠ .off →
       let up := noteEvent .lineChange (some k) none (requestReservation k (s.setLine k
         { s.line k with
           config := new, state := .active, rx := Receiver.fresh, turnaround := none
           faultTimer := none, recovery := none, pollPos := 0, cycle := 0#4, burst := 0 }))
       (new.mode = .direct → answers up 1#8) ∧
       (new.mode = .polled → (s.line k).tp = none → (s.line k).window = .closed →
         answers (takeTurn k up) 1#8)) ∧
     ((s.line k).state ≠ .off → new.mode = .off →
       ∃ u t : State, exec .lineSet s = .next t ∧ Follows (u.answeredOk c (ok 0#8)) t ∧
         u = noteEvent .lineChange (some k) none (releaseReservation k
           (flushLine k (decide ((s.line k).config.mode = .polled))
             ((s.modPool (fun p => { p with waiters := LineSet.erase p.waiters k })).setLine k
               { s.line k with
                 config := new, state := .off, turnaround := none, faultTimer := none
                 recovery := none, rx := Receiver.idleStopped }))) ∧
         u.globals = s.globals ∧ (∀ j, j ≠ k → u.port j = s.port j) ∧
         (u.line k).config = new ∧ (u.line k).state = .off ∧ (u.line k).holdsNothing ∧
         LineSet.has u.pool.waiters k = false ∧
         (∀ d, d ≠ .qRefused → (u.line k).counter d = (s.line k).counter d) ∧
         u.notice.records.get NoticeKind.lineChange.code =
           { pending := true
             count :=
               if (s.notice.records.get NoticeKind.lineChange.code).count = 0xFF#8 then 0xFF#8
               else (s.notice.records.get NoticeKind.lineChange.code).count + 1#8
             line := some k, value := none }))

/-- LINE-RESET (R31, R88, R126, R155): an OFF line is left as it is; an ACTIVE or FAULT line is flushed and
keeps its state, its reservation, its configuration, its counters, its break condition and its fault and
recovery timers, and no LINE-CHANGE is given; its engine is empty but for the RETURNs of the flush that were
admitted to it and a NOTICE built in the event; on a POLLED line presence, poll position, cycle and burst are
reset; the reply carries the line's state. That a character the receiver is inside runs on is the model's
choice (log entry 6). What a flush does with the frames is stated in `RelayOriginatedFrames`. -/
def Obligations.LineResetFlushesAndKeepsState : Prop :=
  ∀ (s : State) (c : Cmd), Ready s c → c.code = 0x0B#8 →
    let ok (b : Byte) : Reply := { status := .ok, detail := 0#8, results := [b] }
    (7 < (byteAt c.ops 0).toNat → ∃ t, exec .lineReset s = .next t ∧
      Follows (s.replied c { status := .operand, detail := 1#8, results := [] }) t) ∧
    (∀ k : Line, (byteAt c.ops 0).toNat = k.val → (s.line k).state = .off →
      ∃ t, exec .lineReset s = .next t ∧ Follows (s.answeredOk c (ok 0#8)) t) ∧
    (∀ k : Line, (byteAt c.ops 0).toNat = k.val → (s.line k).state ≠ .off →
      let polled := decide ((s.line k).config.mode = .polled)
      let v := s.setLine k { s.line k with turnaround := none }
      let u := flushLine k polled v
      (∃ t : State, exec .lineReset s = .next t ∧
        Follows (u.answeredOk c (ok (s.line k).state.code)) t) ∧
      u.globals = s.globals ∧ (∀ j, j ≠ k → u.port j = s.port j) ∧
      (u.line k).config = (s.line k).config ∧ (u.line k).state = (s.line k).state ∧
      (u.line k).rx.phase = (if (s.line k).state = .active then .hunt else .stopped) ∧
      (u.line k).rx.gap = none ∧ (u.line k).rx.quiet = none ∧
      (u.line k).rx.brk = (s.line k).rx.brk ∧ (u.line k).rx.inChar = (s.line k).rx.inChar ∧
      (u.line k).faultTimer = (s.line k).faultTimer ∧
      (u.line k).recovery = (s.line k).recovery ∧
      (u.line k).turnaround =
        (if (s.line k).tp.isSome ∧ (s.line k).config.mode = .polled ∧
            (s.line k).config.turnaround ≠ 0 then some (s.line k).config.turnaround else none) ∧
      (u.line k).tp = none ∧ (u.line k).await = .empty ∧ (u.line k).confirmTimer = none ∧
      (u.line k).pendingConf = [] ∧ (u.line k).memo = [] ∧ (u.line k).window = .closed ∧
      (u.line k).windowTimer = none ∧ (u.line k).pauseTimer = none ∧
      ((u.line k).normalQ).Sublist
        (flushFrames (s.line k) (v.modLine k (LineRec.emptied polled))).2 ∧
      (u.line k).urgentQ.length ≤ 1 ∧
      (u.notice.seq = s.notice.seq → (u.line k).urgentQ = []) ∧
      ((s.line k).state = .fault → (u.line k).normalQ = [] ∧ (u.line k).urgentQ = []) ∧
      ((s.line k).config.mode = .polled →
        (u.line k).pollList =
          (s.line k).pollList.map (fun e => { e with presence := .present, miss := 0 }) ∧
        (u.line k).pollPos = 0 ∧ (u.line k).cycle = 0#4 ∧ (u.line k).burst = 0) ∧
      ((s.line k).config.mode ≠ .polled → (u.line k).pollList = (s.line k).pollList) ∧
      (∀ i, (s.line k).reservation = some i → LineSet.has s.pool.waiters k = false →
        (u.line k).reservation = some i) ∧
      (∀ d, d ≠ .qRefused → (u.line k).counter d = (s.line k).counter d) ∧
      u.notice.records.get NoticeKind.lineChange.code =
        s.notice.records.get NoticeKind.lineChange.code)
end

