-- ==== Sys2Proof/Laws/State.lean ====
section
/-! SUPPORT. The small lemmas of State's updates: what each leaves alone, and what a read after it
gives. -/

namespace Sys2Proof.Machine

variable (s : State) (j k : Line) (i m : SlotIx)

/-! ## setLine -/

@[simp] theorem State.setLine_rstnLow (l : LineRec) : (s.setLine k l).rstnLow = s.rstnLow := rfl
@[simp] theorem State.setLine_straps (l : LineRec) : (s.setLine k l).straps = s.straps := rfl
@[simp] theorem State.setLine_slots (l : LineRec) : (s.setLine k l).slots = s.slots := rfl
@[simp] theorem State.setLine_pool (l : LineRec) : (s.setLine k l).pool = s.pool := rfl
@[simp] theorem State.setLine_route (l : LineRec) : (s.setLine k l).route = s.route := rfl
@[simp] theorem State.setLine_agent (l : LineRec) : (s.setLine k l).agent = s.agent := rfl
@[simp] theorem State.setLine_notice (l : LineRec) : (s.setLine k l).notice = s.notice := rfl
@[simp] theorem State.setLine_pending (l : LineRec) : (s.setLine k l).pending = s.pending := rfl
@[simp] theorem State.setLine_slot (l : LineRec) : (s.setLine k l).slot i = s.slot i := rfl
@[simp] theorem State.setLine_frame (l : LineRec) : (s.setLine k l).frame i = s.frame i := rfl
@[simp] theorem State.setLine_globals (l : LineRec) : (s.setLine k l).globals = s.globals := rfl

/-! ## modLine -/

@[simp] theorem State.modLine_rstnLow (f : LineRec → LineRec) : (s.modLine k f).rstnLow = s.rstnLow := rfl
@[simp] theorem State.modLine_straps (f : LineRec → LineRec) : (s.modLine k f).straps = s.straps := rfl
@[simp] theorem State.modLine_slots (f : LineRec → LineRec) : (s.modLine k f).slots = s.slots := rfl
@[simp] theorem State.modLine_pool (f : LineRec → LineRec) : (s.modLine k f).pool = s.pool := rfl
@[simp] theorem State.modLine_route (f : LineRec → LineRec) : (s.modLine k f).route = s.route := rfl
@[simp] theorem State.modLine_agent (f : LineRec → LineRec) : (s.modLine k f).agent = s.agent := rfl
@[simp] theorem State.modLine_notice (f : LineRec → LineRec) : (s.modLine k f).notice = s.notice := rfl
@[simp] theorem State.modLine_pending (f : LineRec → LineRec) : (s.modLine k f).pending = s.pending := rfl
@[simp] theorem State.modLine_slot (f : LineRec → LineRec) : (s.modLine k f).slot i = s.slot i := rfl
@[simp] theorem State.modLine_frame (f : LineRec → LineRec) : (s.modLine k f).frame i = s.frame i := rfl
@[simp] theorem State.modLine_globals (f : LineRec → LineRec) : (s.modLine k f).globals = s.globals := rfl

/-! ## setSlot -/

@[simp] theorem State.setSlot_rstnLow (x : Slot) : (s.setSlot i x).rstnLow = s.rstnLow := rfl
@[simp] theorem State.setSlot_straps (x : Slot) : (s.setSlot i x).straps = s.straps := rfl
@[simp] theorem State.setSlot_lines (x : Slot) : (s.setSlot i x).lines = s.lines := rfl
@[simp] theorem State.setSlot_pool (x : Slot) : (s.setSlot i x).pool = s.pool := rfl
@[simp] theorem State.setSlot_route (x : Slot) : (s.setSlot i x).route = s.route := rfl
@[simp] theorem State.setSlot_agent (x : Slot) : (s.setSlot i x).agent = s.agent := rfl
@[simp] theorem State.setSlot_notice (x : Slot) : (s.setSlot i x).notice = s.notice := rfl
@[simp] theorem State.setSlot_pending (x : Slot) : (s.setSlot i x).pending = s.pending := rfl
@[simp] theorem State.setSlot_line (x : Slot) : (s.setSlot i x).line k = s.line k := rfl
@[simp] theorem State.setSlot_port (x : Slot) : (s.setSlot i x).port k = s.port k := rfl
@[simp] theorem State.setSlot_engine (x : Slot) : (s.setSlot i x).engine k = s.engine k := rfl
@[simp] theorem State.setSlot_globals (x : Slot) : (s.setSlot i x).globals = s.globals := rfl

/-! ## modSlot -/

@[simp] theorem State.modSlot_rstnLow (f : Slot → Slot) : (s.modSlot i f).rstnLow = s.rstnLow := rfl
@[simp] theorem State.modSlot_straps (f : Slot → Slot) : (s.modSlot i f).straps = s.straps := rfl
@[simp] theorem State.modSlot_lines (f : Slot → Slot) : (s.modSlot i f).lines = s.lines := rfl
@[simp] theorem State.modSlot_pool (f : Slot → Slot) : (s.modSlot i f).pool = s.pool := rfl
@[simp] theorem State.modSlot_route (f : Slot → Slot) : (s.modSlot i f).route = s.route := rfl
@[simp] theorem State.modSlot_agent (f : Slot → Slot) : (s.modSlot i f).agent = s.agent := rfl
@[simp] theorem State.modSlot_notice (f : Slot → Slot) : (s.modSlot i f).notice = s.notice := rfl
@[simp] theorem State.modSlot_pending (f : Slot → Slot) : (s.modSlot i f).pending = s.pending := rfl
@[simp] theorem State.modSlot_line (f : Slot → Slot) : (s.modSlot i f).line k = s.line k := rfl
@[simp] theorem State.modSlot_port (f : Slot → Slot) : (s.modSlot i f).port k = s.port k := rfl
@[simp] theorem State.modSlot_engine (f : Slot → Slot) : (s.modSlot i f).engine k = s.engine k := rfl
@[simp] theorem State.modSlot_globals (f : Slot → Slot) : (s.modSlot i f).globals = s.globals := rfl

/-! ## modFrame -/

@[simp] theorem State.modFrame_rstnLow (f : Frame → Frame) : (s.modFrame i f).rstnLow = s.rstnLow := rfl
@[simp] theorem State.modFrame_straps (f : Frame → Frame) : (s.modFrame i f).straps = s.straps := rfl
@[simp] theorem State.modFrame_lines (f : Frame → Frame) : (s.modFrame i f).lines = s.lines := rfl
@[simp] theorem State.modFrame_pool (f : Frame → Frame) : (s.modFrame i f).pool = s.pool := rfl
@[simp] theorem State.modFrame_route (f : Frame → Frame) : (s.modFrame i f).route = s.route := rfl
@[simp] theorem State.modFrame_agent (f : Frame → Frame) : (s.modFrame i f).agent = s.agent := rfl
@[simp] theorem State.modFrame_notice (f : Frame → Frame) : (s.modFrame i f).notice = s.notice := rfl
@[simp] theorem State.modFrame_pending (f : Frame → Frame) : (s.modFrame i f).pending = s.pending := rfl
@[simp] theorem State.modFrame_line (f : Frame → Frame) : (s.modFrame i f).line k = s.line k := rfl
@[simp] theorem State.modFrame_port (f : Frame → Frame) : (s.modFrame i f).port k = s.port k := rfl
@[simp] theorem State.modFrame_engine (f : Frame → Frame) : (s.modFrame i f).engine k = s.engine k := rfl
@[simp] theorem State.modFrame_globals (f : Frame → Frame) : (s.modFrame i f).globals = s.globals := rfl

/-! ## modPool -/

@[simp] theorem State.modPool_rstnLow (f : Pool → Pool) : (s.modPool f).rstnLow = s.rstnLow := rfl
@[simp] theorem State.modPool_straps (f : Pool → Pool) : (s.modPool f).straps = s.straps := rfl
@[simp] theorem State.modPool_lines (f : Pool → Pool) : (s.modPool f).lines = s.lines := rfl
@[simp] theorem State.modPool_slots (f : Pool → Pool) : (s.modPool f).slots = s.slots := rfl
@[simp] theorem State.modPool_route (f : Pool → Pool) : (s.modPool f).route = s.route := rfl
@[simp] theorem State.modPool_agent (f : Pool → Pool) : (s.modPool f).agent = s.agent := rfl
@[simp] theorem State.modPool_notice (f : Pool → Pool) : (s.modPool f).notice = s.notice := rfl
@[simp] theorem State.modPool_pending (f : Pool → Pool) : (s.modPool f).pending = s.pending := rfl
@[simp] theorem State.modPool_pool (f : Pool → Pool) : (s.modPool f).pool = f s.pool := rfl
@[simp] theorem State.modPool_line (f : Pool → Pool) : (s.modPool f).line k = s.line k := rfl
@[simp] theorem State.modPool_port (f : Pool → Pool) : (s.modPool f).port k = s.port k := rfl
@[simp] theorem State.modPool_engine (f : Pool → Pool) : (s.modPool f).engine k = s.engine k := rfl
@[simp] theorem State.modPool_slot (f : Pool → Pool) : (s.modPool f).slot i = s.slot i := rfl
@[simp] theorem State.modPool_frame (f : Pool → Pool) : (s.modPool f).frame i = s.frame i := rfl

/-! ## modRoute -/

@[simp] theorem State.modRoute_rstnLow (f : RouteUnit → RouteUnit) : (s.modRoute f).rstnLow = s.rstnLow := rfl
@[simp] theorem State.modRoute_straps (f : RouteUnit → RouteUnit) : (s.modRoute f).straps = s.straps := rfl
@[simp] theorem State.modRoute_lines (f : RouteUnit → RouteUnit) : (s.modRoute f).lines = s.lines := rfl
@[simp] theorem State.modRoute_slots (f : RouteUnit → RouteUnit) : (s.modRoute f).slots = s.slots := rfl
@[simp] theorem State.modRoute_pool (f : RouteUnit → RouteUnit) : (s.modRoute f).pool = s.pool := rfl
@[simp] theorem State.modRoute_agent (f : RouteUnit → RouteUnit) : (s.modRoute f).agent = s.agent := rfl
@[simp] theorem State.modRoute_notice (f : RouteUnit → RouteUnit) : (s.modRoute f).notice = s.notice := rfl
@[simp] theorem State.modRoute_pending (f : RouteUnit → RouteUnit) : (s.modRoute f).pending = s.pending := rfl
@[simp] theorem State.modRoute_route (f : RouteUnit → RouteUnit) : (s.modRoute f).route = f s.route := rfl
@[simp] theorem State.modRoute_line (f : RouteUnit → RouteUnit) : (s.modRoute f).line k = s.line k := rfl
@[simp] theorem State.modRoute_port (f : RouteUnit → RouteUnit) : (s.modRoute f).port k = s.port k := rfl
@[simp] theorem State.modRoute_engine (f : RouteUnit → RouteUnit) : (s.modRoute f).engine k = s.engine k := rfl
@[simp] theorem State.modRoute_slot (f : RouteUnit → RouteUnit) : (s.modRoute f).slot i = s.slot i := rfl
@[simp] theorem State.modRoute_frame (f : RouteUnit → RouteUnit) : (s.modRoute f).frame i = s.frame i := rfl

/-! ## modAgent -/

@[simp] theorem State.modAgent_rstnLow (f : Agent → Agent) : (s.modAgent f).rstnLow = s.rstnLow := rfl
@[simp] theorem State.modAgent_straps (f : Agent → Agent) : (s.modAgent f).straps = s.straps := rfl
@[simp] theorem State.modAgent_lines (f : Agent → Agent) : (s.modAgent f).lines = s.lines := rfl
@[simp] theorem State.modAgent_slots (f : Agent → Agent) : (s.modAgent f).slots = s.slots := rfl
@[simp] theorem State.modAgent_pool (f : Agent → Agent) : (s.modAgent f).pool = s.pool := rfl
@[simp] theorem State.modAgent_route (f : Agent → Agent) : (s.modAgent f).route = s.route := rfl
@[simp] theorem State.modAgent_notice (f : Agent → Agent) : (s.modAgent f).notice = s.notice := rfl
@[simp] theorem State.modAgent_pending (f : Agent → Agent) : (s.modAgent f).pending = s.pending := rfl
@[simp] theorem State.modAgent_agent (f : Agent → Agent) : (s.modAgent f).agent = f s.agent := rfl
@[simp] theorem State.modAgent_line (f : Agent → Agent) : (s.modAgent f).line k = s.line k := rfl
@[simp] theorem State.modAgent_port (f : Agent → Agent) : (s.modAgent f).port k = s.port k := rfl
@[simp] theorem State.modAgent_engine (f : Agent → Agent) : (s.modAgent f).engine k = s.engine k := rfl
@[simp] theorem State.modAgent_slot (f : Agent → Agent) : (s.modAgent f).slot i = s.slot i := rfl
@[simp] theorem State.modAgent_frame (f : Agent → Agent) : (s.modAgent f).frame i = s.frame i := rfl

/-! ## modNotice -/

@[simp] theorem State.modNotice_rstnLow (f : NoticeUnit → NoticeUnit) : (s.modNotice f).rstnLow = s.rstnLow := rfl
@[simp] theorem State.modNotice_straps (f : NoticeUnit → NoticeUnit) : (s.modNotice f).straps = s.straps := rfl
@[simp] theorem State.modNotice_lines (f : NoticeUnit → NoticeUnit) : (s.modNotice f).lines = s.lines := rfl
@[simp] theorem State.modNotice_slots (f : NoticeUnit → NoticeUnit) : (s.modNotice f).slots = s.slots := rfl
@[simp] theorem State.modNotice_pool (f : NoticeUnit → NoticeUnit) : (s.modNotice f).pool = s.pool := rfl
@[simp] theorem State.modNotice_route (f : NoticeUnit → NoticeUnit) : (s.modNotice f).route = s.route := rfl
@[simp] theorem State.modNotice_agent (f : NoticeUnit → NoticeUnit) : (s.modNotice f).agent = s.agent := rfl
@[simp] theorem State.modNotice_pending (f : NoticeUnit → NoticeUnit) : (s.modNotice f).pending = s.pending := rfl
@[simp] theorem State.modNotice_notice (f : NoticeUnit → NoticeUnit) : (s.modNotice f).notice = f s.notice := rfl
@[simp] theorem State.modNotice_line (f : NoticeUnit → NoticeUnit) : (s.modNotice f).line k = s.line k := rfl
@[simp] theorem State.modNotice_port (f : NoticeUnit → NoticeUnit) : (s.modNotice f).port k = s.port k := rfl
@[simp] theorem State.modNotice_engine (f : NoticeUnit → NoticeUnit) : (s.modNotice f).engine k = s.engine k := rfl
@[simp] theorem State.modNotice_slot (f : NoticeUnit → NoticeUnit) : (s.modNotice f).slot i = s.slot i := rfl
@[simp] theorem State.modNotice_frame (f : NoticeUnit → NoticeUnit) : (s.modNotice f).frame i = s.frame i := rfl

/-! ## Reading a line or a slot after an update -/

/-- Reading back the line just replaced. -/
@[simp] theorem State.line_setLine_same (l : LineRec) : (s.setLine k l).line k = l := by
  simp [State.line, State.setLine, Vector.get_eq_getElem]

/-- Reading another line than the one replaced. -/
theorem State.line_setLine_ne (l : LineRec) (h : j ≠ k) : (s.setLine k l).line j = s.line j := by
  simp only [State.line, State.setLine, Vector.get_eq_getElem]
  exact Vector.getElem_set_ne _ _ (fun e => h (Fin.ext e.symm))

/-- Reading a line after one is replaced. -/
theorem State.line_setLine (l : LineRec) :
    (s.setLine k l).line j = if j = k then l else s.line j := by
  split
  · next h => subst h; simp
  · next h => exact s.line_setLine_ne j k l h

@[simp] theorem State.line_modLine_same (f : LineRec → LineRec) :
    (s.modLine k f).line k = f (s.line k) := by simp [State.modLine]

theorem State.line_modLine_ne (f : LineRec → LineRec) (h : j ≠ k) :
    (s.modLine k f).line j = s.line j := s.line_setLine_ne j k _ h

theorem State.line_modLine (f : LineRec → LineRec) :
    (s.modLine k f).line j = if j = k then f (s.line j) else s.line j := by
  unfold State.modLine
  rw [State.line_setLine]
  split
  · next h => rw [h]
  · rfl

/-- Reading back the slot just replaced. -/
@[simp] theorem State.slot_setSlot_same (x : Slot) : (s.setSlot i x).slot i = x := by
  simp [State.slot, State.setSlot, Vector.get_eq_getElem]

theorem State.slot_setSlot_ne (x : Slot) (h : m ≠ i) : (s.setSlot i x).slot m = s.slot m := by
  simp only [State.slot, State.setSlot, Vector.get_eq_getElem]
  exact Vector.getElem_set_ne _ _ (fun e => h (Fin.ext e.symm))

theorem State.slot_setSlot (x : Slot) :
    (s.setSlot i x).slot m = if m = i then x else s.slot m := by
  split
  · next h => subst h; simp
  · next h => exact s.slot_setSlot_ne i m x h

@[simp] theorem State.slot_modSlot_same (f : Slot → Slot) :
    (s.modSlot i f).slot i = f (s.slot i) := by simp [State.modSlot]

theorem State.slot_modSlot_ne (f : Slot → Slot) (h : m ≠ i) :
    (s.modSlot i f).slot m = s.slot m := s.slot_setSlot_ne i m _ h

theorem State.slot_modSlot (f : Slot → Slot) :
    (s.modSlot i f).slot m = if m = i then f (s.slot m) else s.slot m := by
  unfold State.modSlot
  rw [State.slot_setSlot]
  split
  · next h => rw [h]
  · rfl

@[simp] theorem State.frame_modFrame_same (f : Frame → Frame) :
    (s.modFrame i f).frame i = f (s.frame i) := by simp [State.modFrame, State.frame]

theorem State.frame_modFrame_ne (f : Frame → Frame) (h : m ≠ i) :
    (s.modFrame i f).frame m = s.frame m := by
  simp [State.modFrame, State.frame, State.slot_modSlot_ne s i m _ h]

/-! ## Updates of one line or slot in a row -/

/-- Putting back the line that is there changes nothing. -/
theorem State.setLine_self (l : LineRec) (h : l = s.line k) : s.setLine k l = s := by
  subst h
  simp [State.setLine, State.line, Vector.get_eq_getElem]

/-- Of two replacements of one line the second counts. -/
@[simp] theorem State.setLine_setLine (l l' : LineRec) :
    (s.setLine k l).setLine k l' = s.setLine k l' := by simp [State.setLine]

theorem State.modLine_def (f : LineRec → LineRec) : s.modLine k f = s.setLine k (f (s.line k)) := rfl

@[simp] theorem State.modLine_setLine (l : LineRec) (f : LineRec → LineRec) :
    (s.setLine k l).modLine k f = s.setLine k (f l) := by simp [State.modLine]

/-- Changing a slot's frame to what it is changes nothing. -/
theorem State.modFrame_self (f : Frame → Frame) (h : f (s.frame i) = s.frame i) :
    s.modFrame i f = s := by
  have hx : (fun x : Slot => { x with frame := f x.frame }) (s.slot i) = s.slot i := by
    show { s.slot i with frame := f (s.slot i).frame } = s.slot i
    have h' : f (s.slot i).frame = (s.slot i).frame := h
    rw [h']
  unfold State.modFrame State.modSlot State.setSlot
  rw [hx]
  simp [State.slot, Vector.get_eq_getElem]

/-- Updates of a line and of a slot commute. -/
theorem State.setLine_modSlot (l : LineRec) (f : Slot → Slot) :
    (s.setLine k l).modSlot i f = (s.modSlot i f).setLine k l := rfl

/-! ## Views after an update of one line -/

/-- An update of one line that keeps the line's port view keeps every port view. -/
theorem State.port_modLine_of_keeps (f : LineRec → LineRec) (h : ∀ l, (f l).port = l.port) :
    (s.modLine k f).port j = s.port j := by
  unfold State.port
  rw [State.line_modLine]
  split
  · next e => rw [h]
  · rfl

/-- The port view of another line than the one updated. -/
theorem State.port_modLine_ne (f : LineRec → LineRec) (h : j ≠ k) :
    (s.modLine k f).port j = s.port j := by
  unfold State.port
  rw [State.line_modLine_ne s j k f h]

/-- The engine view of another line than the one updated. -/
theorem State.engine_modLine_ne (f : LineRec → LineRec) (h : j ≠ k) :
    (s.modLine k f).engine j = s.engine j := by
  unfold State.engine
  rw [State.line_modLine_ne s j k f h]

/-! ## Globals after an update of one block -/

theorem State.globals_modPool (f : Pool → Pool)
    (h : ∀ p, (f p).reserve = p.reserve ∧ (f p).lowMark = p.lowMark ∧ (f p).highMark = p.highMark) :
    (s.modPool f).globals = s.globals := by
  simp [State.globals, h s.pool]

end Sys2Proof.Machine
end

