-- ==== Sys2Proof/Laws/Steady.lean ====
section
/-! SUPPORT. What the shared operations leave alone: each keeps `Steady` from the state before it, or
from the state with the one field it is there to change. -/

namespace Sys2Proof.Machine

/-! ## The relation -/

theorem Steady.refl (s : State) : Steady s s := ⟨rfl, fun _ => rfl, fun _ _ _ => rfl, fun _ _ _ => rfl, fun _ _ => rfl⟩

theorem Steady.trans {s t u : State} (h : Steady s t) (g : Steady t u) : Steady s u :=
  ⟨g.globals.trans h.globals, fun k => (g.port k).trans (h.port k),
    fun k c n => (g.counter k c n).trans (h.counter k c n),
    fun c n m => (g.relayCounter c n m).trans (h.relayCounter c n m),
    fun q n => (g.record q n).trans (h.record q n)⟩

/-- An update of one line that keeps its port view and counters. -/
theorem Steady.modLine (s : State) (k : Line) (f : LineRec → LineRec)
    (hp : (f (s.line k)).port = (s.line k).port)
    (hc : (f (s.line k)).counters = (s.line k).counters) : Steady s (s.modLine k f) := by
  refine ⟨rfl, fun j => ?_, fun j c _ => ?_, fun _ _ _ => rfl, fun _ _ => rfl⟩
  · unfold State.port
    rw [State.line_modLine]
    split
    · next h => subst h; exact hp
    · rfl
  · rw [State.line_modLine]
    split
    · next h => subst h; simp only [LineRec.counter, hc]
    · rfl

theorem Steady.modSlot (s : State) (i : SlotIx) (f : Slot → Slot) : Steady s (s.modSlot i f) :=
  ⟨rfl, fun _ => rfl, fun _ _ _ => rfl, fun _ _ _ => rfl, fun _ _ => rfl⟩

theorem Steady.modFrame (s : State) (i : SlotIx) (f : Frame → Frame) : Steady s (s.modFrame i f) :=
  Steady.modSlot s i _

theorem Steady.modPool (s : State) (f : Pool → Pool)
    (h : (f s.pool).reserve = s.pool.reserve ∧ (f s.pool).lowMark = s.pool.lowMark ∧
      (f s.pool).highMark = s.pool.highMark) : Steady s (s.modPool f) :=
  ⟨by simp [State.globals, h], fun _ => rfl, fun _ _ _ => rfl, fun _ _ _ => rfl, fun _ _ => rfl⟩

theorem Steady.modAgent (s : State) (f : Agent → Agent)
    (h : (f s.agent).claim = s.agent.claim ∧ (f s.agent).lease = s.agent.lease ∧
      (f s.agent).leaseSetting = s.agent.leaseSetting ∧ (f s.agent).cache = s.agent.cache) :
    Steady s (s.modAgent f) :=
  ⟨by simp [State.globals, h], fun _ => rfl, fun _ _ _ => rfl, fun _ _ _ => rfl, fun _ _ => rfl⟩

theorem Steady.modNotice (s : State) (f : NoticeUnit → NoticeUnit)
    (h : (f s.notice).mask = s.notice.mask ∧ (f s.notice).address = s.notice.address ∧
      (f s.notice).interval = s.notice.interval ∧ (f s.notice).records = s.notice.records) :
    Steady s (s.modNotice f) :=
  ⟨by simp [State.globals, h], fun _ => rfl, fun _ _ _ => rfl, fun _ _ _ => rfl,
    fun _ _ => by simp [h]⟩

/-- A fold of steady steps is steady. -/
theorem Steady.foldl {α : Type} (f : State → α → State) (h : ∀ s a, Steady s (f s a)) (l : List α)
    (s : State) : Steady s (l.foldl f s) := by
  induction l generalizing s with
  | nil => exact Steady.refl s
  | cons a l ih => exact (h s a).trans (ih (f s a))

/-! ## Counters -/

theorem LineCounter.index_inj {a b : LineCounter} (h : a.index = b.index) : a = b := by
  cases a <;> cases b <;> first | rfl | (exact absurd h (by decide))

theorem RelayCounter.index_inj {a b : RelayCounter} (h : a.index = b.index) : a = b := by
  cases a <;> cases b <;> first | rfl | (exact absurd h (by decide))

theorem NoticeKind.code_inj {a b : NoticeKind} (h : a.code = b.code) : a = b := by
  cases a <;> cases b <;> first | rfl | (exact absurd h (by decide))

/-- A counter of a line after an increment. -/
theorem counter_bumpLine (s : State) (j k : Line) (c d : LineCounter) :
    ((s.bumpLine k c).line j).counter d =
      if j = k ∧ d = c then satInc ((s.line k).counter c) else (s.line j).counter d := by
  unfold State.bumpLine
  rw [State.line_modLine]
  by_cases hj : j = k
  · subst hj
    by_cases hd : d = c
    · subst hd; simp [LineRec.counter, Vector.get_eq_getElem]
    · have : c.index.val ≠ d.index.val := fun e => hd (LineCounter.index_inj (Fin.ext e)).symm
      simp [LineRec.counter, Vector.get_eq_getElem, hd, Vector.getElem_set_ne _ _ this]
  · simp [hj]

/-- A relay-wide counter after an increment. -/
theorem counter_bumpRelay (s : State) (c d : RelayCounter) :
    (s.bumpRelay c).route.counter d =
      if d = c then satInc (s.route.counter c) else s.route.counter d := by
  unfold State.bumpRelay
  by_cases hd : d = c
  · subst hd; simp [RouteUnit.counter, Vector.get_eq_getElem]
  · have : c.index.val ≠ d.index.val := fun e => hd (RelayCounter.index_inj (Fin.ext e)).symm
    simp [RouteUnit.counter, Vector.get_eq_getElem, hd, Vector.getElem_set_ne _ _ this]

theorem port_bumpLine (s : State) (j k : Line) (c : LineCounter) :
    (s.bumpLine k c).port j = s.port j :=
  State.port_modLine_of_keeps s j k _ (fun _ => rfl)

@[simp] theorem globals_bumpLine (s : State) (k : Line) (c : LineCounter) :
    (s.bumpLine k c).globals = s.globals := rfl

@[simp] theorem globals_bumpRelay (s : State) (c : RelayCounter) :
    (s.bumpRelay c).globals = s.globals := rfl

/-- Only Q_REFUSED may be counted among an event's consequences. -/
theorem Steady.bumpRefused (s : State) (k : Line) : Steady s (s.bumpLine k .qRefused) :=
  ⟨rfl, fun j => port_bumpLine s j k _,
    fun j d n => by rw [counter_bumpLine]; simp [n], fun _ _ _ => rfl, fun _ _ => rfl⟩

theorem Steady.bumpRelay (s : State) (c : RelayCounter) (h : c = .discarded ∨ c = .unrouted) :
    Steady s (s.bumpRelay c) :=
  ⟨rfl, fun _ => rfl, fun _ _ _ => rfl,
    fun d n m => by
      rw [counter_bumpRelay]
      rcases h with rfl | rfl
      · simp [n]
      · simp [m],
    fun _ _ => rfl⟩

/-! ## Slots and events -/

theorem dropRef_steady (i : SlotIx) (s : State) : Steady s (dropRef i s) := by
  unfold dropRef
  dsimp only
  split
  · exact (Steady.modSlot _ _ _).trans (Steady.modPool _ _ ⟨rfl, rfl, rfl⟩)
  · exact Steady.modSlot _ _ _

theorem allocate_steady {a : Option Line} {s t : State} {i : SlotIx} (h : allocate a s = some (i, t)) :
    Steady s t := by
  unfold allocate at h
  split at h
  · cases h
  · cases h
    exact (Steady.modPool _ _ ⟨rfl, rfl, rfl⟩).trans (Steady.modSlot _ _ _)

/-- A record after an event is recorded. -/
theorem record_recordEvent (q p : NoticeKind) (l : Option Line) (v : Option Addr) (s : State) :
    (recordEvent q l v s).notice.records.get p.code =
      if p = q then
        { pending := true
          count := if (s.notice.records.get q.code).count = 0xFF#8
            then (s.notice.records.get q.code).count else (s.notice.records.get q.code).count + 1#8
          line := l, value := v }
      else s.notice.records.get p.code := by
  unfold recordEvent
  by_cases h : p = q
  · subst h; simp [Vector.get_eq_getElem]
  · have : q.code.val ≠ p.code.val := fun e => h (NoticeKind.code_inj (Fin.ext e)).symm
    simp [Vector.get_eq_getElem, h, Vector.getElem_set_ne _ _ this]

@[simp] theorem globals_recordEvent (q : NoticeKind) (l : Option Line) (v : Option Addr) (s : State) :
    (recordEvent q l v s).globals = s.globals := rfl

theorem recordEvent_steady (q : NoticeKind) (l : Option Line) (v : Option Addr) (s : State)
    (hq : q.ofTraffic = true) : Steady s (recordEvent q l v s) :=
  ⟨rfl, fun _ => rfl, fun _ _ _ => rfl, fun _ _ _ => rfl,
    fun p n => by
      rw [record_recordEvent]
      have : p ≠ q := fun e => by rw [e, hq] at n; cases n
      simp [this]⟩

theorem countRelayInEmission_steady (c : RelayCounter) (s : State)
    (h : c = .discarded ∨ c = .unrouted) : Steady s (countRelayInEmission c s) := by
  unfold countRelayInEmission
  dsimp only
  split
  · exact (Steady.bumpRelay s c h).trans (recordEvent_steady _ _ _ _ rfl)
  · exact Steady.bumpRelay s c h

theorem offerUrgent_steady (j : Line) (i : SlotIx) (s : State) : Steady s (offerUrgent j i s).1 := by
  unfold offerUrgent
  dsimp only
  split
  · dsimp only
    exact Steady.modLine s j _ rfl rfl
  · exact Steady.refl s

theorem routeNotice_steady (i : SlotIx) (s : State) : Steady s (routeNotice i s) := by
  unfold routeNotice
  split
  · dsimp only
    split
    · exact (Steady.modFrame _ _ _).trans (offerUrgent_steady _ _ _)
    · exact ((Steady.modFrame _ _ _).trans (offerUrgent_steady _ _ _)).trans (dropRef_steady _ _)
  · exact (countRelayInEmission_steady _ _ (.inl rfl)).trans (dropRef_steady _ _)
  · exact (countRelayInEmission_steady _ _ (.inr rfl)).trans (dropRef_steady _ _)

theorem emitNotice_steady (s : State) : Steady s (emitNotice s) := by
  unfold emitNotice
  split
  · exact Steady.refl s
  · next i t h =>
    dsimp only
    refine Steady.trans ?_ (Steady.modNotice _ _ ⟨rfl, rfl, rfl, rfl⟩)
    refine Steady.trans ?_ (routeNotice_steady _ _)
    refine Steady.trans ?_ (Steady.modNotice _ _ ⟨rfl, rfl, rfl, rfl⟩)
    refine Steady.trans ?_ (Steady.modFrame _ _ _)
    refine Steady.trans ?_ (Steady.modNotice _ _ ⟨rfl, rfl, rfl, rfl⟩)
    exact Steady.trans (allocate_steady h) (Steady.modPool _ _ ⟨rfl, rfl, rfl⟩)

theorem emissionTest_steady (s : State) : Steady s (emissionTest s) := by
  unfold emissionTest
  split
  · split
    · exact Steady.refl s
    · split
      · exact Steady.modPool _ _ (by exact ⟨rfl, rfl, rfl⟩)
      · exact emitNotice_steady s
  · exact Steady.modPool _ _ (by exact ⟨rfl, rfl, rfl⟩)

/-- An event changes the record of its kind and nothing else that is steady (R164, R166). -/
theorem noteEvent_steady (q : NoticeKind) (l : Option Line) (v : Option Addr) (s : State) :
    Steady (recordEvent q l v s) (noteEvent q l v s) := emissionTest_steady _

/-- A count changes its counter and nothing else that is steady (R37). -/
theorem countLine_steady (k : Line) (c : LineCounter) (s : State) :
    Steady (s.bumpLine k c) (countLine k c s) := by
  unfold countLine
  dsimp only
  split
  · exact (recordEvent_steady _ _ _ _ rfl).trans (noteEvent_steady _ _ _ _)
  · exact Steady.refl _

/-- A count changes its counter and nothing else that is steady (R71). -/
theorem countRelay_steady (c : RelayCounter) (s : State) :
    Steady (s.bumpRelay c) (countRelay c s) := by
  unfold countRelay
  dsimp only
  split
  · exact (recordEvent_steady _ _ _ _ rfl).trans (noteEvent_steady _ _ _ _)
  · exact Steady.refl _

theorem countRefused_steady (k : Line) (s : State) : Steady s (countLine k .qRefused s) :=
  (Steady.bumpRefused s k).trans (countLine_steady k .qRefused s)

/-! ## Pool -/

theorem grantTo_steady (k : Line) (s : State) : Steady s (grantTo k s) := by
  unfold grantTo
  split
  · exact Steady.refl s
  · next i t h =>
    refine (allocate_steady h).trans ?_
    exact (Steady.modPool t
      (fun p => { p with waiters := LineSet.erase p.waiters k, lastGranted := k })
      ⟨rfl, rfl, rfl⟩).trans (Steady.modLine _ k _ rfl rfl)

theorem grantOne_steady (s : State) : Steady s (grantOne s) := by
  unfold grantOne
  split
  · split
    · exact grantTo_steady _ s
    · exact Steady.refl s
  · exact Steady.refl s

theorem grantWaiters_steady (s : State) : Steady s (grantWaiters s) :=
  Steady.foldl _ (fun s _ => grantOne_steady s) _ s

theorem serveNotice_steady (s : State) : Steady s (serveNotice s) := by
  unfold serveNotice
  split
  · exact emitNotice_steady s
  · exact Steady.refl s

theorem poolService_steady (s : State) : Steady s (poolService s) :=
  (serveNotice_steady s).trans (grantWaiters_steady _)

theorem releaseRef_steady (i : SlotIx) (s : State) : Steady s (releaseRef i s) :=
  (dropRef_steady i s).trans (poolService_steady _)

theorem requestReservation_steady (k : Line) (s : State) : Steady s (requestReservation k s) := by
  unfold requestReservation
  split
  · exact grantTo_steady k s
  · exact Steady.modPool _ _ ⟨rfl, rfl, rfl⟩

theorem evaluatePool_steady (s : State) : Steady s (evaluatePool s) := by
  unfold evaluatePool
  dsimp only
  split
  · exact ((Steady.modPool s _ ⟨rfl, rfl, rfl⟩).trans (recordEvent_steady _ _ _ _ rfl)).trans
      (noteEvent_steady _ _ _ _)
  · exact Steady.modPool _ _ ⟨rfl, rfl, rfl⟩

/-! ## Admission and RETURN frames -/

theorem admitNormal_steady (j : Line) (i : SlotIx) (s : State) : Steady s (admitNormal j i s).1 := by
  unfold admitNormal
  split
  · dsimp only
    exact Steady.modLine s j _ rfl rfl
  · exact countRefused_steady j s

theorem makeReturn_steady (r : Reason) (i : SlotIx) (s : State) : Steady s (makeReturn r i s) :=
  Steady.modSlot _ _ _

theorem countDropped_steady (c : RelayCounter) (s : State) (h : c = .discarded ∨ c = .unrouted) :
    Steady s (countRelay c s) := (Steady.bumpRelay s c h).trans (countRelay_steady c s)

theorem routeReturn_steady (i : SlotIx) (s : State) : Steady s (routeReturn i s) := by
  unfold routeReturn
  split
  · dsimp only
    split
    · exact (Steady.modFrame _ _ _).trans (admitNormal_steady _ _ _)
    · exact ((Steady.modFrame _ _ _).trans (admitNormal_steady _ _ _)).trans (dropRef_steady _ _)
  · exact (countDropped_steady _ _ (.inl rfl)).trans (dropRef_steady _ _)
  · refine (countDropped_steady .unrouted s (.inr rfl)).trans ?_
    refine (recordEvent_steady .unrouted none (some (s.frame i).dest) _ rfl).trans ?_
    exact (noteEvent_steady _ _ _ _).trans (dropRef_steady _ _)

theorem returnFrame_steady (r : Reason) (i : SlotIx) (s : State) : Steady s (returnFrame r i s) :=
  ((makeReturn_steady r i s).trans (routeReturn_steady i _)).trans (poolService_steady _)

/-! ## Selections and turns -/

theorem beginTx_steady (k : Line) (t : TxItem) (s : State) : Steady s (beginTx k t s) := by
  refine Steady.modLine s k _ ?_ rfl
  dsimp only [LineRec.port]
  split <;> rfl

theorem sendConf_steady (k : Line) (e : ConfEntry) (s : State) : Steady s (sendConf k e s) :=
  (Steady.modLine s k _ rfl rfl).trans (beginTx_steady k _ _)

theorem sendUrgent_steady (k : Line) (i : SlotIx) (s : State) : Steady s (sendUrgent k i s) :=
  (Steady.modLine s k _ rfl rfl).trans (beginTx_steady k _ _)

theorem sendRetry_steady (k : Line) (i : SlotIx) (s : State) : Steady s (sendRetry k i s) := by
  unfold sendRetry
  exact ((Steady.modSlot s i _).trans (Steady.modLine _ k _ rfl rfl)).trans (beginTx_steady k _ _)

theorem sendNormal_steady (k : Line) (i : SlotIx) (s : State) : Steady s (sendNormal k i s) :=
  (Steady.modLine s k _ rfl rfl).trans (beginTx_steady k _ _)

theorem firstSources_steady {k : Line} {s t : State} (h : firstSources k s = some t) : Steady s t := by
  unfold firstSources at h
  dsimp only at h
  split at h <;> cases h
  · exact sendConf_steady _ _ _
  · exact sendUrgent_steady _ _ _
  · exact sendRetry_steady _ _ _

theorem selectDirect_steady (k : Line) (s : State) : Steady s (selectDirect k s) := by
  unfold selectDirect
  split
  · next h => exact firstSources_steady h
  · split
    · exact sendNormal_steady _ _ _
    · exact Steady.refl s

theorem removeAbsentHead_steady (k : Line) (i : SlotIx) (s : State) :
    Steady s (removeAbsentHead k i s) := by
  unfold removeAbsentHead
  dsimp only
  split
  · exact (Steady.modLine s k _ rfl rfl).trans (returnFrame_steady _ _ _)
  · exact ((Steady.modLine s k _ rfl rfl).trans (releaseRef_steady _ _)).trans (countRefused_steady _ _)

theorem serveNormal_steady (k : Line) (n : Nat) (s : State) : Steady s (serveNormal k n s).1 := by
  induction n generalizing s with
  | zero => exact Steady.refl s
  | succ n ih =>
    unfold serveNormal
    split
    · exact Steady.refl s
    · split
      · exact (removeAbsentHead_steady _ _ _).trans (ih _)
      · exact (Steady.modLine s k _ rfl rfl).trans (sendNormal_steady _ _ _)

theorem sendPoll_steady (k : Line) (n : Nat) (s : State) : Steady s (sendPoll k n s) :=
  (Steady.modLine s k _ rfl rfl).trans (beginTx_steady k _ _)

theorem pollSearch_steady (k : Line) (n : Nat) (s : State) : Steady s (pollSearch k n s) := by
  induction n generalizing s with
  | zero => exact Steady.refl s
  | succ n ih =>
    unfold pollSearch
    dsimp only
    split
    · exact Steady.refl s
    · split
      · exact sendPoll_steady _ _ _
      · exact (Steady.modLine s k _ rfl rfl).trans (ih _)

theorem takeTurn_steady (k : Line) (s : State) : Steady s (takeTurn k s) := by
  unfold takeTurn
  split
  · next h => exact firstSources_steady h
  · split
    · dsimp only
      split
      · exact serveNormal_steady _ _ _
      · exact (serveNormal_steady _ _ _).trans (pollSearch_steady _ _ _)
    · exact pollSearch_steady _ _ _

/-! ## The agent -/

theorem noteReplyGone_steady (i : SlotIx) (s : State) : Steady s (noteReplyGone i s) := by
  unfold noteReplyGone
  split
  · exact Steady.modAgent _ _ ⟨rfl, rfl, rfl, rfl⟩
  · exact Steady.refl s

theorem releaseReply_steady (i : SlotIx) (s : State) : Steady s (releaseReply i s) :=
  ((Steady.modAgent s _ ⟨rfl, rfl, rfl, rfl⟩).trans (noteReplyGone_steady _ _)).trans
    (releaseRef_steady _ _)

theorem offerReply_steady (s : State) : Steady s (offerReply s) := by
  unfold offerReply
  split
  · exact Steady.refl s
  · split
    · exact releaseReply_steady _ _
    · split
      · split
        · exact (Steady.modLine s _ _ rfl rfl).trans (Steady.modAgent _ _ ⟨rfl, rfl, rfl, rfl⟩)
        · exact Steady.modAgent _ _ ⟨rfl, rfl, rfl, rfl⟩
      · exact releaseReply_steady _ _

theorem giveRoom_steady (s : State) : Steady s (giveRoom s) := by
  unfold giveRoom
  split
  · exact offerReply_steady s
  · exact Steady.refl s

theorem dropHeldReply_steady (k : Line) (s : State) : Steady s (dropHeldReply k s) := by
  unfold dropHeldReply
  split
  · exact Steady.refl s
  · split
    · exact releaseReply_steady _ _
    · exact Steady.refl s

theorem takeCommand_steady (s : State) : Steady s (takeCommand s) := by
  unfold takeCommand
  split
  · split
    · exact Steady.refl s
    · exact Steady.modAgent _ _ ⟨rfl, rfl, rfl, rfl⟩
  · exact Steady.refl s

theorem attend_steady (s : State) (k : Line) : Steady s (attend s k) := by
  unfold attend
  split
  · exact selectDirect_steady k s
  · split
    · exact takeTurn_steady k s
    · exact Steady.refl s

theorem attendAll_steady (s : State) : Steady s (attendAll s) := Steady.foldl _ attend_steady _ s

theorem attendRounds_steady (n : Nat) (s : State) : Steady s (attendRounds n s) := by
  induction n generalizing s with
  | zero => exact Steady.refl s
  | succ n ih =>
    unfold attendRounds
    split
    · exact Steady.refl s
    · exact (attendAll_steady s).trans (ih _)

end Sys2Proof.Machine
end

