-- ==== Sys2Proof/Laws/Settle.lean ====
section
/-! SUPPORT. The end of an event: `settle` is steady, changes nothing in a settled state, and leaves the
engine of a line that may not transmit as it was; and the outcomes `when` and `event` give. -/

namespace Sys2Proof.Machine

/-- The consequences of an event are steady. -/
theorem settle_steady (s : State) : Steady s (settle s) := by
  unfold settle
  dsimp only
  exact (((takeCommand_steady s).trans (attendRounds_steady _ _)).trans (evaluatePool_steady _)).trans
    (attendRounds_steady _ _)

/-! ## A settled state -/

theorem takeCommand_of_settled {s : State} (h : Settled s) : takeCommand s = s := by
  unfold takeCommand
  split
  · next hi => simp [h.agent hi]
  · rfl

/-- A line is quiet when, if it may transmit, it has nothing to send. -/
theorem LineRec.quiet_iff (l : LineRec) : l.quiet = true ↔
    (l.state = .active → l.config.mode = .direct → l.tp = none →
      l.pendingConf = [] ∧ l.urgentQ = [] ∧ (∀ i, l.await ≠ .due i) ∧
      (l.await = .empty → l.normalQ = [])) ∧
    (l.state = .active → l.config.mode = .polled → l.tp = none → l.rx.phase = .hunt →
      l.window = .closed → l.turnaround = none →
      l.pendingConf = [] ∧ l.urgentQ = [] ∧ (∀ i, l.await ≠ .due i) ∧
      (l.await = .empty → l.pollList = [] ∨ l.burst < l.config.burstLimit → l.normalQ = []) ∧
      (l.pollList = [] ∨ l.pauseTimer ≠ none)) := by
  have hf : l.firstEmpty = true ↔ l.pendingConf = [] ∧ l.urgentQ = [] ∧ ∀ i, l.await ≠ .due i := by
    unfold LineRec.firstEmpty
    cases l.await <;> simp [List.isEmpty_iff]
  have ha : l.await.occupied = false ↔ l.await = .empty := by
    cases l.await <;> simp [Await.occupied, Await.slot?]
  have hs : l.selects = true ↔ l.state = .active ∧ l.config.mode = .direct ∧ l.tp = none := by
    simp [LineRec.selects, and_assoc]
  have ht : l.takesTurn = true ↔ l.state = .active ∧ l.config.mode = .polled ∧ l.tp = none ∧
      l.rx.phase = .hunt ∧ l.window = .closed ∧ l.turnaround = none := by
    simp [LineRec.takesTurn, LineRec.pastTurnaround, and_assoc]
  have hb : l.burstAllows = true ↔ l.pollList = [] ∨ l.burst < l.config.burstLimit := by
    simp [LineRec.burstAllows, List.isEmpty_iff]
  have hn : l.pauseTimer.isSome = true ↔ l.pauseTimer ≠ none := by
    cases l.pauseTimer <;> simp
  unfold LineRec.quiet
  split
  · next h =>
    have h' := hs.1 h
    have hq : (l.await.occupied || l.normalQ.isEmpty) = true ↔ (l.await = .empty → l.normalQ = []) := by
      rw [← ha, ← List.isEmpty_iff]
      cases l.await.occupied <;> cases l.normalQ.isEmpty <;> decide
    rw [Bool.and_eq_true, hf, hq]
    constructor
    · rintro ⟨⟨a, b, c⟩, d⟩
      exact ⟨fun _ _ _ => ⟨a, b, c, d⟩, fun _ m => nomatch h'.2.1.symm.trans m⟩
    · rintro ⟨w, -⟩
      obtain ⟨a, b, c, d⟩ := w h'.1 h'.2.1 h'.2.2
      exact ⟨⟨a, b, c⟩, d⟩
  · next h =>
    have h' : ¬ (l.state = .active ∧ l.config.mode = .direct ∧ l.tp = none) := fun e => h (hs.2 e)
    split
    · next g =>
      have g' := ht.1 g
      have hq : (l.await.occupied || !l.burstAllows || l.normalQ.isEmpty) = true ↔
          (l.await = .empty → l.pollList = [] ∨ l.burst < l.config.burstLimit → l.normalQ = []) := by
        rw [← ha, ← hb, ← List.isEmpty_iff]
        cases l.await.occupied <;> cases l.burstAllows <;> cases l.normalQ.isEmpty <;> decide
      rw [Bool.and_eq_true, Bool.and_eq_true, hf, hq, Bool.or_eq_true, hn, List.isEmpty_iff]
      constructor
      · rintro ⟨⟨⟨a, b, c⟩, d⟩, e⟩
        exact ⟨fun _ m => (nomatch g'.2.1.symm.trans m), fun _ _ _ _ _ _ => ⟨a, b, c, d, e⟩⟩
      · rintro ⟨-, w⟩
        obtain ⟨a, b, c, d, e⟩ := w g'.1 g'.2.1 g'.2.2.1 g'.2.2.2.1 g'.2.2.2.2.1 g'.2.2.2.2.2
        exact ⟨⟨⟨a, b, c⟩, d⟩, e⟩
    · next g =>
      exact ⟨fun _ => ⟨fun a b c => (h' ⟨a, b, c⟩).elim,
        fun a b c d e f => (g (ht.2 ⟨a, b, c, d, e, f⟩)).elim⟩, fun _ => rfl⟩

/-- The pool state is that of the free list's length exactly when its two bounds hold (R48). -/
theorem Pool.evaluated_eq_iff (p : Pool) : p.evaluated = p.state ↔
    (p.state = .normal → p.lowMark ≤ p.free.length) ∧
    (p.state = .low → p.free.length < p.highMark) := by
  unfold Pool.evaluated
  cases h : p.state <;> dsimp only <;> split <;> simp <;> omega

theorem Settled.quiet {s : State} (h : Settled s) (k : Line) : (s.line k).quiet = true :=
  (LineRec.quiet_iff _).2 ⟨h.direct k, h.polled k⟩

theorem State.allQuiet_of_lines {s : State} (h : ∀ k, (s.line k).quiet = true) : s.allQuiet = true := by
  unfold State.allQuiet
  rw [List.all_eq_true]
  exact fun k _ => h k

theorem attendRounds_of_allQuiet {s : State} (h : s.allQuiet = true) (n : Nat) :
    attendRounds n s = s := by
  cases n <;> simp [attendRounds, h]

theorem evaluatePool_of_settled {s : State} (h : Settled s) : evaluatePool s = s := by
  have he : s.pool.evaluated = s.pool.state := (Pool.evaluated_eq_iff _).2 ⟨h.normal, h.low⟩
  unfold evaluatePool
  dsimp only
  split
  · next hc => rw [he] at hc; rw [hc.1] at hc; exact absurd hc.2 (by decide)
  · unfold State.modPool
    dsimp only
    rw [he]

/-- In a settled state nothing follows. -/
theorem settle_of_settled {s : State} (h : Settled s) : settle s = s := by
  unfold settle
  simp [takeCommand_of_settled h, attendRounds_of_allQuiet (State.allQuiet_of_lines h.quiet),
    evaluatePool_of_settled h]

/-! ## What `when` and `event` answer -/

theorem when_next {s : State} {p : Bool} {f : State → State} (hr : s.rstnLow = false)
    (hp : p = true) : when s p f = .next (f s) := by simp [when, hr, hp]

theorem when_impossible {s : State} {p : Bool} {f : State → State} (h : s.rstnLow = true ∨ p = false) :
    when s p f = .next s := by
  rcases h with h | h <;> simp [when, h]

theorem event_next {s : State} {p : Bool} {f : State → State} (hr : s.rstnLow = false)
    (hp : p = true) : event s p f = .next (settle (f s)) := when_next hr hp

theorem event_impossible {s : State} {p : Bool} {f : State → State}
    (h : s.rstnLow = true ∨ p = false) : event s p f = .next s := when_impossible h

/-! ## The engine of a line that may not transmit -/

section Engine

variable (k : Line)

theorem dropRef_engine (i : SlotIx) (s : State) : (dropRef i s).engine k = s.engine k := by
  unfold dropRef; dsimp only; split <;> rfl

theorem allocate_engine {a : Option Line} {s t : State} {i : SlotIx}
    (h : allocate a s = some (i, t)) : t.engine k = s.engine k := by
  unfold allocate at h; split at h <;> cases h; rfl

theorem modLine_engine (s : State) (j : Line) (f : LineRec → LineRec)
    (h : (f (s.line j)).engine = (s.line j).engine) : (s.modLine j f).engine k = s.engine k := by
  unfold State.engine
  rw [State.line_modLine]
  split
  · next e => subst e; exact h
  · rfl

theorem bumpLine_engine (j : Line) (c : LineCounter) (s : State) :
    (s.bumpLine j c).engine k = s.engine k := modLine_engine k s j _ rfl

theorem routeNotice_engine (i : SlotIx) (s : State) : (routeNotice i s).engine k = s.engine k := by
  have hc : ∀ c s, (countRelayInEmission c s).engine k = s.engine k := by
    intro c s; unfold countRelayInEmission; dsimp only; split <;> rfl
  have ho : ∀ j i s, (offerUrgent j i s).1.engine k = s.engine k := by
    intro j i s; unfold offerUrgent; dsimp only; split
    · exact modLine_engine k s j _ rfl
    · rfl
  unfold routeNotice
  split
  · dsimp only
    split
    · exact ho _ _ _
    · exact (dropRef_engine k _ _).trans (ho _ _ _)
  · exact (dropRef_engine k _ _).trans (hc _ _)
  · exact (dropRef_engine k _ _).trans (hc _ _)

theorem emitNotice_engine (s : State) : (emitNotice s).engine k = s.engine k := by
  unfold emitNotice
  split
  · rfl
  · next h => exact (routeNotice_engine k _ _).trans (Eq.trans rfl (allocate_engine k h :))

theorem emissionTest_engine (s : State) : (emissionTest s).engine k = s.engine k := by
  unfold emissionTest
  split
  · split
    · rfl
    · split
      · rfl
      · exact emitNotice_engine k s
  · rfl

theorem noteEvent_engine (q : NoticeKind) (l : Option Line) (v : Option Addr) (s : State) :
    (noteEvent q l v s).engine k = s.engine k := emissionTest_engine k _

theorem countLine_engine (j : Line) (c : LineCounter) (s : State) :
    (countLine j c s).engine k = s.engine k := by
  unfold countLine; dsimp only; split
  · exact (noteEvent_engine k _ _ _ _).trans (bumpLine_engine k j c s)
  · exact bumpLine_engine k j c s

theorem countRelay_engine (c : RelayCounter) (s : State) :
    (countRelay c s).engine k = s.engine k := by
  unfold countRelay; dsimp only; split
  · exact noteEvent_engine k _ _ _ _
  · rfl

theorem grantTo_engine (j : Line) (s : State) : (grantTo j s).engine k = s.engine k := by
  unfold grantTo
  split
  · rfl
  · next h =>
    dsimp only
    rw [modLine_engine _ _ _ _ rfl]
    exact Eq.trans rfl (allocate_engine k h :)

theorem grantWaiters_engine (s : State) : (grantWaiters s).engine k = s.engine k := by
  have h1 : ∀ s, (grantOne s).engine k = s.engine k := by
    intro s; unfold grantOne
    split
    · split
      · exact grantTo_engine k _ s
      · rfl
    · rfl
  unfold grantWaiters
  induction allLines generalizing s with
  | nil => rfl
  | cons a l ih => exact (ih _).trans (h1 s)

theorem poolService_engine (s : State) : (poolService s).engine k = s.engine k := by
  unfold poolService
  rw [grantWaiters_engine]
  unfold serveNotice
  split
  · exact emitNotice_engine k s
  · rfl

theorem releaseRef_engine (i : SlotIx) (s : State) : (releaseRef i s).engine k = s.engine k :=
  (poolService_engine k _).trans (dropRef_engine k i s)

theorem evaluatePool_engine (s : State) : (evaluatePool s).engine k = s.engine k := by
  unfold evaluatePool; dsimp only; split
  · exact noteEvent_engine k _ _ _ _
  · rfl

theorem admitNormal_engine (j : Line) (i : SlotIx) (s : State) :
    (admitNormal j i s).1.engine k = s.engine k := by
  unfold admitNormal
  split
  · exact modLine_engine k s j _ rfl
  · exact countLine_engine k j _ s

theorem routeReturn_engine (i : SlotIx) (s : State) : (routeReturn i s).engine k = s.engine k := by
  unfold routeReturn
  split
  · dsimp only
    split
    · exact admitNormal_engine k _ _ _
    · exact (dropRef_engine k _ _).trans (admitNormal_engine k _ _ _)
  · exact (dropRef_engine k _ _).trans (countRelay_engine k _ _)
  · exact (dropRef_engine k _ _).trans ((noteEvent_engine k _ _ _ _).trans (countRelay_engine k _ _))

theorem returnFrame_engine (r : Reason) (i : SlotIx) (s : State) :
    (returnFrame r i s).engine k = s.engine k :=
  (poolService_engine k _).trans (routeReturn_engine k i _)

theorem releaseReply_engine (i : SlotIx) (s : State) : (releaseReply i s).engine k = s.engine k := by
  unfold releaseReply
  rw [releaseRef_engine]
  unfold noteReplyGone
  split <;> rfl

theorem giveRoom_engine (s : State) : (giveRoom s).engine k = s.engine k := by
  unfold giveRoom
  split
  · unfold offerReply
    split
    · rfl
    · split
      · exact releaseReply_engine k _ _
      · split
        · split
          · exact Eq.trans rfl (modLine_engine k s _ (fun l => { l with urgentQ := l.urgentQ ++ _ }) rfl)
          · rfl
        · exact releaseReply_engine k _ _
  · rfl

theorem takeCommand_engine (s : State) : (takeCommand s).engine k = s.engine k := by
  unfold takeCommand
  split
  · split <;> rfl
  · rfl

end Engine

/-! ## Another line's turn -/

section Other

variable (k j : Line) (h : k ≠ j)
include h

theorem firstSources_engine_ne {s t : State} (e : firstSources j s = some t) :
    t.engine k = s.engine k := by
  unfold firstSources at e
  dsimp only at e
  split at e <;> cases e
  · simp only [sendConf, beginTx]
    rw [State.engine_modLine_ne _ k j _ h, State.engine_modLine_ne _ k j _ h]
  · simp only [sendUrgent, beginTx]
    rw [State.engine_modLine_ne _ k j _ h, State.engine_modLine_ne _ k j _ h]
  · simp only [sendRetry, beginTx]
    rw [State.engine_modLine_ne _ k j _ h, State.engine_modLine_ne _ k j _ h]
    rfl

theorem sendNormal_engine_ne (i : SlotIx) (s : State) :
    (sendNormal j i s).engine k = s.engine k := by
  simp only [sendNormal, beginTx]
  rw [State.engine_modLine_ne _ k j _ h, State.engine_modLine_ne _ k j _ h]

theorem selectDirect_engine_ne (s : State) : (selectDirect j s).engine k = s.engine k := by
  unfold selectDirect
  split
  · next e => exact firstSources_engine_ne k j h e
  · split
    · exact sendNormal_engine_ne k j h _ s
    · rfl

theorem serveNormal_engine_ne (n : Nat) (s : State) :
    (serveNormal j n s).1.engine k = s.engine k := by
  induction n generalizing s with
  | zero => rfl
  | succ n ih =>
    unfold serveNormal
    split
    · rfl
    · split
      · refine (ih _).trans ?_
        unfold removeAbsentHead
        dsimp only
        split
        · exact (returnFrame_engine k _ _ _).trans (State.engine_modLine_ne s k j _ h)
        · exact (countLine_engine k _ _ _).trans
            ((releaseRef_engine k _ _).trans (State.engine_modLine_ne s k j _ h))
      · exact (sendNormal_engine_ne k j h _ _).trans (State.engine_modLine_ne s k j _ h)

theorem pollSearch_engine_ne (n : Nat) (s : State) :
    (pollSearch j n s).engine k = s.engine k := by
  induction n generalizing s with
  | zero => rfl
  | succ n ih =>
    unfold pollSearch
    dsimp only
    split
    · rfl
    · split
      · simp only [sendPoll, beginTx]
        rw [State.engine_modLine_ne _ k j _ h, State.engine_modLine_ne _ k j _ h]
      · exact (ih _).trans (State.engine_modLine_ne s k j _ h)

theorem takeTurn_engine_ne (s : State) : (takeTurn j s).engine k = s.engine k := by
  unfold takeTurn
  split
  · next e => exact firstSources_engine_ne k j h e
  · split
    · dsimp only
      split
      · exact serveNormal_engine_ne k j h _ s
      · exact (pollSearch_engine_ne k j h _ _).trans (serveNormal_engine_ne k j h _ s)
    · exact pollSearch_engine_ne k j h _ s

theorem attend_engine_ne (s : State) : (attend s j).engine k = s.engine k := by
  unfold attend
  split
  · exact selectDirect_engine_ne k j h s
  · split
    · exact takeTurn_engine_ne k j h s
    · rfl

end Other

/-! ## A resting line -/

/-- Whether a line may transmit is read from its port and engine views. -/
theorem atRest_congr {l m : LineRec} (hp : l.port = m.port) (he : l.engine = m.engine) :
    l.atRest = m.atRest := by
  simp only [LineRec.port, LineRec.engine, PortView.mk.injEq, EngineView.mk.injEq] at hp he
  obtain ⟨h1, h2, -, h4, -, -, -, -, h9, -, -, -, -, -, h15, -⟩ := hp
  obtain ⟨e1, -⟩ := he
  simp only [LineRec.atRest, LineRec.selects, LineRec.takesTurn, LineRec.pastTurnaround,
    h1, h2, h4, h9, h15, e1]

/-- A round of attention leaves a resting line's engine alone, and the line at rest. -/
theorem attendAll_engine_of_atRest (k : Line) (s : State) (h : (s.line k).atRest = true) :
    (attendAll s).engine k = s.engine k := by
  unfold attendAll
  induction allLines generalizing s with
  | nil => rfl
  | cons j l ih =>
    have he : (attend s j).engine k = s.engine k := by
      by_cases hk : k = j
      · subst hk
        unfold LineRec.atRest at h
        unfold attend
        simp only [Bool.and_eq_true, Bool.not_eq_true'] at h
        simp [h.1, h.2]
      · exact attend_engine_ne k j hk s
    refine (ih _ ?_).trans he
    rw [← h]
    exact atRest_congr ((attend_steady s j).port k) he

theorem attendRounds_engine_of_atRest (k : Line) (n : Nat) (s : State)
    (h : (s.line k).atRest = true) : (attendRounds n s).engine k = s.engine k := by
  induction n generalizing s with
  | zero => rfl
  | succ n ih =>
    unfold attendRounds
    split
    · rfl
    · have e := attendAll_engine_of_atRest k s h
      refine (ih _ ?_).trans e
      rw [← h]
      exact atRest_congr ((attendAll_steady s).port k) e

/-- The consequences of an event leave the engine of a line that may not transmit as it was. -/
theorem settle_engine_of_atRest (k : Line) (s : State) (h : (s.line k).atRest = true) :
    (settle s).engine k = s.engine k := by
  have step (t u : State) (hp : Steady t u) (he : u.engine k = t.engine k)
      (ht : (t.line k).atRest = true) : (u.line k).atRest = true := by
    rw [← ht]; exact atRest_congr (hp.port k) he
  unfold settle
  dsimp only
  have h0 := step _ _ (takeCommand_steady s) (takeCommand_engine k s) h
  have e1 := attendRounds_engine_of_atRest k (takeCommand s).work _ h0
  have h1 := step _ _ (attendRounds_steady _ _) e1 h0
  have h2 := step _ _ (evaluatePool_steady _) (evaluatePool_engine k _) h1
  rw [attendRounds_engine_of_atRest k _ _ h2, evaluatePool_engine, e1, takeCommand_engine]

/-- The state after the consequences of an event follows from the state before them. -/
theorem follows_settle (u : State) : Follows u (settle u) :=
  ⟨rfl, settle_steady u, fun k => settle_engine_of_atRest k u, settle_of_settled⟩

/-- An event that can take place answers a state that follows from its effect. -/
theorem event_follows {s u : State} {p : Bool} {f : State → State} (hr : s.rstnLow = false)
    (hp : p = true) (hu : f s = u) : ∃ t, event s p f = .next t ∧ Follows u t :=
  ⟨settle (f s), event_next hr hp, hu ▸ follows_settle _⟩

end Sys2Proof.Machine
end

