-- ==== Sys2Proof/Laws/Agent.lean ====
section
/-! SUPPORT. What leaves the management agent alone, the offer of a reply, and the execution completion
of a command. -/

namespace Sys2Proof.Machine

/-! ## Operations that leave the agent alone -/

@[simp] theorem dropRef_agent (i : SlotIx) (s : State) : (dropRef i s).agent = s.agent := by
  unfold dropRef; dsimp only; split <;> rfl

theorem allocate_agent {a : Option Line} {s t : State} {i : SlotIx}
    (h : allocate a s = some (i, t)) : t.agent = s.agent := by
  unfold allocate at h; split at h <;> cases h; rfl

@[simp] theorem routeNotice_agent (i : SlotIx) (s : State) : (routeNotice i s).agent = s.agent := by
  have hc : ∀ c s, (countRelayInEmission c s).agent = s.agent := by
    intro c s; unfold countRelayInEmission; dsimp only; split <;> rfl
  have ho : ∀ j i s, (offerUrgent j i s).1.agent = s.agent := by
    intro j i s; unfold offerUrgent; dsimp only; split <;> rfl
  unfold routeNotice
  split
  · dsimp only
    split
    · exact ho _ _ _
    · exact (dropRef_agent _ _).trans (ho _ _ _)
  · exact (dropRef_agent _ _).trans (hc _ _)
  · exact (dropRef_agent _ _).trans (hc _ _)

@[simp] theorem emitNotice_agent (s : State) : (emitNotice s).agent = s.agent := by
  unfold emitNotice
  split
  · rfl
  · next h => exact (routeNotice_agent _ _).trans (Eq.trans rfl (allocate_agent h :))

@[simp] theorem emissionTest_agent (s : State) : (emissionTest s).agent = s.agent := by
  unfold emissionTest
  split
  · split
    · rfl
    · split
      · rfl
      · exact emitNotice_agent s
  · rfl

@[simp] theorem noteEvent_agent (q : NoticeKind) (l : Option Line) (v : Option Addr) (s : State) :
    (noteEvent q l v s).agent = s.agent := emissionTest_agent _

@[simp] theorem countLine_agent (j : Line) (c : LineCounter) (s : State) :
    (countLine j c s).agent = s.agent := by
  unfold countLine; dsimp only; split
  · exact noteEvent_agent _ _ _ _
  · rfl

@[simp] theorem countRelay_agent (c : RelayCounter) (s : State) :
    (countRelay c s).agent = s.agent := by
  unfold countRelay; dsimp only; split
  · exact noteEvent_agent _ _ _ _
  · rfl

@[simp] theorem grantTo_agent (j : Line) (s : State) : (grantTo j s).agent = s.agent := by
  unfold grantTo
  split
  · rfl
  · next h => exact Eq.trans rfl (allocate_agent h :)

@[simp] theorem grantWaiters_agent (s : State) : (grantWaiters s).agent = s.agent := by
  have h1 : ∀ s, (grantOne s).agent = s.agent := by
    intro s; unfold grantOne
    split
    · split
      · exact grantTo_agent _ s
      · rfl
    · rfl
  unfold grantWaiters
  induction allLines generalizing s with
  | nil => rfl
  | cons a l ih => exact (ih _).trans (h1 s)

@[simp] theorem poolService_agent (s : State) : (poolService s).agent = s.agent := by
  unfold poolService
  rw [grantWaiters_agent]
  unfold serveNotice
  split
  · exact emitNotice_agent s
  · rfl

@[simp] theorem releaseRef_agent (i : SlotIx) (s : State) : (releaseRef i s).agent = s.agent :=
  (poolService_agent _).trans (dropRef_agent i s)

@[simp] theorem evaluatePool_agent (s : State) : (evaluatePool s).agent = s.agent := by
  unfold evaluatePool; dsimp only; split
  · exact noteEvent_agent _ _ _ _
  · rfl

@[simp] theorem admitNormal_agent (j : Line) (i : SlotIx) (s : State) :
    (admitNormal j i s).1.agent = s.agent := by
  unfold admitNormal
  split
  · rfl
  · exact countLine_agent j _ s

@[simp] theorem routeReturn_agent (i : SlotIx) (s : State) : (routeReturn i s).agent = s.agent := by
  unfold routeReturn
  split
  · dsimp only
    split
    · exact admitNormal_agent _ _ _
    · exact (dropRef_agent _ _).trans (admitNormal_agent _ _ _)
  · exact (dropRef_agent _ _).trans (countRelay_agent _ _)
  · exact (dropRef_agent _ _).trans ((noteEvent_agent _ _ _ _).trans (countRelay_agent _ _))

@[simp] theorem returnFrame_agent (r : Reason) (i : SlotIx) (s : State) :
    (returnFrame r i s).agent = s.agent :=
  (poolService_agent _).trans (routeReturn_agent i _)

theorem firstSources_agent {k : Line} {s t : State} (h : firstSources k s = some t) :
    t.agent = s.agent := by
  unfold firstSources at h
  dsimp only at h
  split at h <;> cases h <;> rfl

@[simp] theorem serveNormal_agent (k : Line) (n : Nat) (s : State) :
    (serveNormal k n s).1.agent = s.agent := by
  induction n generalizing s with
  | zero => rfl
  | succ n ih =>
    unfold serveNormal
    split
    · rfl
    · split
      · refine (ih _).trans ?_
        unfold removeAbsentHead
        dsimp only
        split
        · exact (returnFrame_agent _ _ _).trans rfl
        · exact (countLine_agent _ _ _).trans ((releaseRef_agent _ _).trans rfl)
      · rfl

@[simp] theorem pollSearch_agent (k : Line) (n : Nat) (s : State) :
    (pollSearch k n s).agent = s.agent := by
  induction n generalizing s with
  | zero => rfl
  | succ n ih =>
    unfold pollSearch
    dsimp only
    split
    · rfl
    · split
      · rfl
      · exact (ih _).trans rfl

/-- A turn leaves the agent alone. -/
@[simp] theorem takeTurn_agent (k : Line) (s : State) : (takeTurn k s).agent = s.agent := by
  unfold takeTurn
  split
  · next h => exact firstSources_agent h
  · split
    · dsimp only
      split
      · exact serveNormal_agent _ _ _
      · exact (pollSearch_agent _ _ _).trans (serveNormal_agent _ _ _)
    · exact pollSearch_agent _ _ _

/-! ## The offer of a reply -/

/-- A reply offered by an agent that is not RESTART-PENDING leaves it so. -/
theorem offerReply_state {s : State} (h : s.agent.state ≠ .restartPending) :
    (offerReply s).agent.state ≠ .restartPending := by
  have hr : ∀ i, (releaseReply i s).agent.state ≠ .restartPending := by
    intro i
    unfold releaseReply
    rw [releaseRef_agent]
    unfold noteReplyGone
    split <;> simp [Agent.letGo, AgentState.afterReply, h]
  unfold offerReply
  split
  · exact h
  · split
    · exact hr _
    · split
      · split
        · simp [Agent.letGo, AgentState.afterReply, h]
        · simp [AgentState.holding, h]
      · exact hr _

/-- No warm restart is due unless the agent is RESTART-PENDING. -/
theorem restartIfDue_of_state {s : State} (h : s.agent.state ≠ .restartPending) :
    restartIfDue s = s := by
  unfold restartIfDue
  simp [Agent.restartDue, h]

/-! ## The execution completion of a command -/

/-- The current command is known by its code. -/
theorem State.commandOf_eq {s : State} {c : Cmd} {code : Byte} (h : s.command = some c)
    (hc : c.code = code) : s.commandOf code = some c := by
  unfold State.commandOf
  rw [h]
  simp [hc]

/-- While a command is current the agent is EXECUTING. -/
theorem State.state_of_command {s : State} {c : Cmd} (h : s.command = some c) :
    s.agent.state = .executing := by
  unfold State.command at h
  split at h
  · assumption
  · cases h

/-- A ready command reaches its own part. -/
theorem Ready.decide {s : State} {c : Cmd} (h : Ready s c) (body : Body) :
    c.decide body s = body c s := by
  unfold Cmd.decide
  rw [h.length]
  dsimp only
  rw [if_neg (by simp), if_neg]
  simp only [Bool.and_eq_true, Bool.not_eq_true']
  rintro ⟨h1, h2⟩
  rw [h.claim h1] at h2
  cases h2

/-- The reply built and offered, when no restart comes of it. -/
theorem replied_eq {s : State} {c : Cmd} {r : Reply} (h : s.agent.state ≠ .restartPending) :
    restartIfDue (offerReply (buildReply c r.bytes s)) = s.replied c r := by
  have e : buildReply c r.bytes s =
      s.modFrame c.slot (fun f =>
        { dest := f.src, src := s.route.relayAddr, kind := .mreply, confirm := false, seq := f.seq
          len := 4 + r.results.length
          payload := [c.code, c.tag, r.status.code, r.detail] ++ r.results }) := by
    unfold buildReply Frame.toReply Reply.bytes
    have hl : 1 + (1 + (1 + (1 + r.results.length))) = 4 + r.results.length := by omega
    simp [Nat.add_comm, hl]
  rw [restartIfDue_of_state]
  · rw [e]; rfl
  · exact offerReply_state (by simpa [buildReply] using h)

/-- A ready command whose own part refuses it. -/
theorem complete_refused {s : State} {c : Cmd} {body : Body} {r : Reply} (h : Ready s c)
    (hb : body c s = (s, r)) (hr : r.status ≠ .ok) : complete body c s = s.replied c r := by
  have hs := State.state_of_command h.current
  unfold complete
  rw [h.fresh]
  simp only [h.decide, hb]
  rw [show recordReply c r s = s by simp [recordReply, hr]]
  exact replied_eq (by rw [hs]; decide)

/-- A ready command whose own part answers OK. -/
theorem complete_ok {s u : State} {c : Cmd} {body : Body} {r : Reply} (h : Ready s c)
    (hb : body c s = (u, r)) (hr : r.status = .ok) (hu : u.agent.state ≠ .restartPending) :
    complete body c s = u.answeredOk c r := by
  unfold complete
  rw [h.fresh]
  simp only [h.decide, hb]
  have e : recordReply c r u = u.recorded c r := by
    simp [recordReply, State.recorded, hr, startLease, Reply.bytes, State.modAgent]
  rw [e, replied_eq]
  · rfl
  · unfold State.recorded
    split <;> simpa using hu

/-- The event of a command that is current. -/
theorem execCommand_next {s u : State} {c : Cmd} {code : Byte} {body : Body} (h : Ready s c)
    (hc : c.code = code) (hu : complete body c s = u) :
    ∃ t, execCommand code body s = .next t ∧ Follows u t := by
  have e := State.commandOf_eq h.current hc
  refine event_follows h.up (by simp [e]) ?_
  simp only [e]
  exact hu

/-- A command whose own part refuses it is replied so, and nothing else is changed. -/
theorem execCommand_refused {s : State} {c : Cmd} {code : Byte} {body : Body} {r : Reply}
    (h : Ready s c) (hc : c.code = code) (hb : body c s = (s, r)) (hr : r.status ≠ .ok) :
    ∃ t, execCommand code body s = .next t ∧ Follows (s.replied c r) t :=
  execCommand_next h hc (complete_refused h hb hr)

/-- A command whose own part answers OK. -/
theorem execCommand_ok {s u : State} {c : Cmd} {code : Byte} {body : Body} {r : Reply}
    (h : Ready s c) (hc : c.code = code) (hb : body c s = (u, r)) (hr : r.status = .ok)
    (hu : u.agent.state ≠ .restartPending) :
    ∃ t, execCommand code body s = .next t ∧ Follows (u.answeredOk c r) t :=
  execCommand_next h hc (complete_ok h hb hr hu)

end Sys2Proof.Machine
end

