-- ==== Sys2Proof/Laws/Receive.lean ====
section
/-! SUPPORT. The receiver: what taking a character comes to, and the line a reception leaves. -/

namespace Sys2Proof.Machine

theorem LineRec.afterChar_config (l : LineRec) (x : Level) : (l.afterChar x).config = l.config := rfl
theorem LineRec.afterChar_phase (l : LineRec) (x : Level) : (l.afterChar x).rx.phase = l.rx.phase := rfl
theorem LineRec.afterChar_crc (l : LineRec) (x : Level) : (l.afterChar x).rx.crc = l.rx.crc := rfl
theorem LineRec.afterChar_window (l : LineRec) (x : Level) : (l.afterChar x).window = l.window := rfl
theorem LineRec.afterChar_reservation (l : LineRec) (x : Level) :
    (l.afterChar x).reservation = l.reservation := rfl

/-- The line the start of `takeChar` leaves. -/
theorem takeChar_line (l : LineRec) (x : Level) :
    ({ l.startTurnaround with
       rxd := x
       rx := { l.rx with
               inChar := false
               gap := none
               quiet := if l.rx.phase = .skip then some l.config.gapLimit else none } } : LineRec) =
      l.afterChar x := by
  unfold LineRec.startTurnaround LineRec.afterChar
  split <;> simp_all

/-- A break character. -/
theorem takeChar_brk {k : Line} {c : RxChar} {s : State}
    (h : classify (s.line k).config.parity c = .brk) :
    takeChar k c s = breakCharacter k (s.setLine k ((s.line k).afterChar c.stop)) := by
  unfold takeChar
  simp only [State.modLine, takeChar_line, State.line_setLine_same, LineRec.afterChar_config, h]

/-- A character with a parity or framing error. -/
theorem takeChar_error {k : Line} {c : RxChar} {s : State}
    (h : classify (s.line k).config.parity c = .framing ∨ classify (s.line k).config.parity c = .parity) :
    takeChar k c s =
      if (s.line k).rx.phase.inFrame = true then
        abandonFrame k .rxChar (s.setLine k ((s.line k).afterChar c.stop))
      else s.setLine k ((s.line k).afterChar c.stop) := by
  unfold takeChar
  simp only [State.modLine, takeChar_line, State.line_setLine_same, LineRec.afterChar_config,
    LineRec.afterChar_phase]
  rcases h with h | h <;> rw [h]

/-- A good character. -/
theorem takeChar_good {k : Line} {c : RxChar} {s : State}
    (h : classify (s.line k).config.parity c = .good) :
    takeChar k c s =
      if (s.line k).rx.phase.inFrame = true then
        storeByte k c.data (s.setLine k ((s.line k).afterChar c.stop))
      else if (s.line k).rx.phase = .hunt ∧ c.data = Config.lead then
        takeLead k (s.setLine k ((s.line k).afterChar c.stop))
      else s.setLine k ((s.line k).afterChar c.stop) := by
  unfold takeChar
  simp only [State.modLine, takeChar_line, State.line_setLine_same, LineRec.afterChar_config,
    LineRec.afterChar_phase, h]

/-- `takeByte` depends on the receiver's phase and check register. -/
theorem takeByte_congr {rx rx' : Receiver} {f g : Frame} {b : Byte} {r : ByteResult}
    {u : Receiver} (hp : rx'.phase = rx.phase) (hc : rx'.crc = rx.crc)
    (h : rx.takeByte f b = (u, g, r)) :
    rx'.takeByte f b = ({ rx' with phase := u.phase, crc := u.crc }, g, r) := by
  unfold Receiver.takeByte at h ⊢
  rw [hp, hc]
  revert h
  cases rx with | mk p c bk ic gp qu =>
  cases rx' with | mk p' c' bk' ic' gp' qu' =>
  simp only at hp hc
  subst hp hc
  dsimp only
  split
  · split
    · rintro ⟨⟩; rfl
    · split
      · rintro ⟨⟩; rfl
      · rintro ⟨⟩; rfl
  · rintro ⟨⟩; rfl
  · split <;> (rintro ⟨⟩; rfl)
  all_goals (rintro ⟨⟩; rfl)

end Sys2Proof.Machine
end

