-- ==== Sys2Proof/Laws/Exec.lean ====
section
/-! SUPPORT. What each event row is: the condition under which its event can take place, and the event's
effect. `event_follows` (Laws/Settle.lean) then says what it answers. -/

namespace Sys2Proof.Machine

variable (s : State) (k : Line)

theorem exec_startBit (m : Level) : exec (.startBit k m) s =
    event s ((s.line k).listening && !(s.line k).rx.inChar && decide (m = .space)) (startChar k) := by
  unfold exec execStartBit; rfl

theorem exec_characterReceived (c : RxChar) : exec (.characterReceived k c) s =
    event s (s.line k).listening (takeChar k c) := by unfold exec execCharacterReceived; rfl

theorem exec_gapTimerExpiry : exec (.gapTimerExpiry k) s =
    event s (decide ((s.line k).state = .active) && (s.line k).rx.phase.inFrame &&
      (s.line k).rx.gap.isSome) (abandonFrame k .rxGap) := by unfold exec execGapTimerExpiry; rfl

theorem exec_quietTimerExpiry : exec (.quietTimerExpiry k) s =
    event s (decide ((s.line k).state = .active) && decide ((s.line k).rx.phase = .skip) &&
      (s.line k).rx.quiet.isSome) (quietExpiry k) := by unfold exec execQuietTimerExpiry; rfl

theorem exec_reservationGrant : exec .reservationGrant s = event s s.pool.canGrant grantOne := by
  unfold exec execReservationGrant; rfl

theorem exec_transmitSelection : exec (.transmitSelection k) s =
    event s (s.line k).selects (selectDirect k) := by unfold exec execTransmitSelection; rfl

theorem exec_polledTurn : exec (.polledTurn k) s =
    event s (s.line k).takesTurn (takeTurn k) := by unfold exec execPolledTurn; rfl

theorem exec_transmitCompletion : exec (.transmitCompletion k) s =
    event s (decide ((s.line k).state = .active) && (s.line k).tp.isSome) (transmitDone k) := by
  unfold exec execTransmitCompletion; rfl

theorem exec_confirmTimerExpiry : exec (.confirmTimerExpiry k) s =
    event s (s.line k).confirmTimer.isSome
      (fun s => awaitExpiry k (s.modLine k (fun l => { l with confirmTimer := none }))) := by
  unfold exec execConfirmTimerExpiry; rfl

theorem exec_replyWindowExpiry : exec (.replyWindowExpiry k) s =
    event s (s.line k).windowTimer.isSome (windowExpiry k) := by unfold exec execReplyWindowExpiry; rfl

theorem exec_turnaroundEnd : exec (.turnaroundEnd k) s =
    event s (s.line k).turnaround.isSome
      (fun s => s.modLine k (fun l => { l with turnaround := none })) := by
  unfold exec execTurnaroundEnd; rfl

theorem exec_pollPauseExpiry : exec (.pollPauseExpiry k) s =
    event s (s.line k).pauseTimer.isSome
      (fun s => s.modLine k (fun l => { l with pauseTimer := none })) := by
  unfold exec execPollPauseExpiry; rfl

theorem exec_faultTimerExpiry : exec (.faultTimerExpiry k) s =
    event s (decide ((s.line k).state = .active) && (s.line k).faultTimer.isSome) (enterFault k) := by
  unfold exec execFaultTimerExpiry; rfl

theorem exec_rxdReturnToMark : exec (.rxdReturnToMark k) s =
    event s (decide ((s.line k).state ≠ .off)) (returnToMark k) := by
  unfold exec execRxdReturnToMark; rfl

theorem exec_rxdSpaceInFault : exec (.rxdSpaceInFault k) s =
    event s (decide ((s.line k).state = .fault))
      (fun s => s.modLine k (fun l => { l with rxd := .space, recovery := none })) := by
  unfold exec execRxdSpaceInFault; rfl

theorem exec_recoveryTimerExpiry : exec (.recoveryTimerExpiry k) s =
    event s (decide ((s.line k).state = .fault) && (s.line k).recovery.isSome) (recover k) := by
  unfold exec execRecoveryTimerExpiry; rfl

theorem exec_agentTake : exec .agentTake s =
    event s (decide (s.agent.state = .idle) && !s.agent.queue.isEmpty) takeCommand := by
  unfold exec execAgentTake; rfl

theorem exec_replyWaitRoom : exec .replyWaitRoom s =
    event s s.agent.waitsForRoom (fun s => restartIfDue (giveRoom s)) := by
  unfold exec execReplyWaitRoom; rfl

theorem exec_leaseExpiry : exec .leaseExpiry s = event s s.agent.lease.isSome lapse := by
  unfold exec execLeaseExpiry; rfl

theorem exec_noticeSlotServed : exec .noticeSlotServed s =
    event s (s.pool.noticeWaiting && !s.pool.free.isEmpty) serveNotice := by
  unfold exec execNoticeSlotServed; rfl

theorem exec_noticeIntervalExpiry : exec .noticeIntervalExpiry s =
    event s s.notice.timer.isSome intervalExpiry := by unfold exec execNoticeIntervalExpiry; rfl

theorem exec_warmRestart : exec .warmRestart s = event s s.agent.restartDue warmRestart := by
  unfold exec execWarmRestart; rfl

/-- A management command that is not one of the notice unit's. -/
theorem exec_command {i : Instr} {code : Byte} {body : Body}
    (h : (i, code, body) ∈ ([(.ident, 0x01#8, identBody), (.claim, 0x02#8, claimBody),
      (.release, 0x03#8, releaseBody), (.routeRead, 0x04#8, routeReadBody),
      (.routeWrite, 0x05#8, routeWriteBody), (.routeClear, 0x06#8, routeClearBody),
      (.routeCopy, 0x07#8, routeCopyBody), (.routeCommit, 0x08#8, routeCommitBody),
      (.lineRead, 0x09#8, lineReadBody), (.lineSet, 0x0A#8, lineSetBody),
      (.lineReset, 0x0B#8, lineResetBody), (.pollRead, 0x0C#8, pollReadBody),
      (.pollWrite, 0x0D#8, pollWriteBody), (.pollRemove, 0x0E#8, pollRemoveBody),
      (.countRead, 0x0F#8, countReadBody), (.poolRead, 0x10#8, poolReadBody),
      (.relayRead, 0x11#8, relayReadBody), (.relaySet, 0x12#8, relaySetBody),
      (.noticeRead, 0x13#8, noticeReadBody), (.restart, 0x16#8, restartBody)] :
        List (Instr × Byte × Body))) :
    exec i s = execCommand code body s := by
  simp only [List.mem_cons, List.not_mem_nil, or_false, Prod.mk.injEq] at h
  rcases h with ⟨rfl, rfl, rfl⟩ | h
  · rfl
  repeat (rcases h with ⟨rfl, rfl, rfl⟩ | h; · rfl)
  obtain ⟨rfl, rfl, rfl⟩ := h; rfl

theorem exec_noticeSet : exec .noticeSet s = execNoticeCommand 0x14#8 noticeSetBody s := by
  unfold exec execNoticeSet; rfl

theorem exec_noticeAck : exec .noticeAck s = execNoticeCommand 0x15#8 noticeAckBody s := by
  unfold exec execNoticeAck; rfl

/-! ## The turn within a LINE-SET -/

/-- Step 3 of a LINE-SET takes a turn or leaves the state as it is (R154). -/
theorem turnAfterSet_cases (old : LineRec) :
    (turnAfterSet k old s = takeTurn k s ∧ (s.line k).takesTurn = true ∧
      (old.state = .off ∨ (s.line k).config.turnFieldsDiffer old.config = true)) ∨
    (turnAfterSet k old s = s ∧ ((s.line k).takesTurn = false ∨
      (old.state ≠ .off ∧ (s.line k).config.turnFieldsDiffer old.config = false))) := by
  unfold turnAfterSet
  cases (s.line k).takesTurn <;> cases (s.line k).config.turnFieldsDiffer old.config <;>
    by_cases h : old.state = .off <;> simp [h]

/-- Step 3 of a LINE-SET keeps all that a turn keeps. -/
theorem turnAfterSet_steady (old : LineRec) : Steady s (turnAfterSet k old s) := by
  rcases turnAfterSet_cases s k old with ⟨h, -⟩ | ⟨h, -⟩ <;> rw [h]
  · exact takeTurn_steady k s
  · exact Steady.refl s

@[simp] theorem turnAfterSet_agent (old : LineRec) : (turnAfterSet k old s).agent = s.agent := by
  rcases turnAfterSet_cases s k old with ⟨h, -⟩ | ⟨h, -⟩ <;> simp [h]

end Sys2Proof.Machine
end

