-- ==== Sys2Proof/Laws/Quiet.lean ====
section
/-! SUPPORT. Every event ends in a settled state: each round of attention that changes something lowers
`State.work`, so the rounds of `settle` end with every line quiet; and what the evaluation of the pool state may
still bring, a NOTICE, leaves the pool's length alone when it is sent. -/

namespace Sys2Proof.Machine

/-! ## What leaves the work alone -/

/-- What a frame in a normal queue weighs in `State.work`. -/
abbrev State.weight (s : State) (i : SlotIx) : Nat := if (s.frame i).confirmedData then 2 else 1

/-- State `t` has no more work than `s`: engines and normal queues are as they were, and no frame weighs more. -/
structure Lighter (s t : State) : Prop where
  engine : ∀ k, t.engine k = s.engine k
  queue : ∀ k, (t.line k).normalQ = (s.line k).normalQ
  weight : ∀ i, t.weight i ≤ s.weight i

theorem Lighter.refl (s : State) : Lighter s s := ⟨fun _ => rfl, fun _ => rfl, fun _ => Nat.le_refl _⟩

theorem Lighter.trans {s t u : State} (h : Lighter s t) (g : Lighter t u) : Lighter s u :=
  ⟨fun k => (g.engine k).trans (h.engine k), fun k => (g.queue k).trans (h.queue k),
    fun i => (g.weight i).trans (h.weight i)⟩

/-- An update that keeps lines and slots. -/
theorem Lighter.of_eq {s t : State} (hl : t.lines = s.lines) (hs : t.slots = s.slots) : Lighter s t := by
  refine ⟨fun k => ?_, fun k => ?_, fun i => ?_⟩
  · unfold State.engine State.line; rw [hl]
  · unfold State.line; rw [hl]
  · unfold State.weight State.frame State.slot; rw [hs]

theorem Lighter.modPool (s : State) (f : Pool → Pool) : Lighter s (s.modPool f) := Lighter.of_eq rfl rfl

theorem Lighter.modNotice (s : State) (f : NoticeUnit → NoticeUnit) : Lighter s (s.modNotice f) :=
  Lighter.of_eq rfl rfl

theorem Lighter.modRoute (s : State) (f : RouteUnit → RouteUnit) : Lighter s (s.modRoute f) :=
  Lighter.of_eq rfl rfl

theorem weight_pos (s : State) (i : SlotIx) : 1 ≤ s.weight i := by unfold State.weight; split <;> omega

theorem Lighter.modSlot (s : State) (i : SlotIx) (f : Slot → Slot)
    (h : (f (s.slot i)).frame.confirmedData = true → (s.slot i).frame.confirmedData = true) :
    Lighter s (s.modSlot i f) := by
  refine ⟨fun _ => rfl, fun _ => rfl, fun m => ?_⟩
  unfold State.weight State.frame
  rw [State.slot_modSlot]
  split
  · next e =>
    subst e
    split <;> split <;> first | omega | (rename_i a b; exact absurd (h a) b)
  · exact Nat.le_refl _

theorem Lighter.modFrame (s : State) (i : SlotIx) (f : Frame → Frame)
    (h : (f (s.frame i)).confirmedData = true → (s.frame i).confirmedData = true) :
    Lighter s (s.modFrame i f) := Lighter.modSlot s i _ h

theorem Lighter.modLine (s : State) (k : Line) (f : LineRec → LineRec)
    (he : (f (s.line k)).engine = (s.line k).engine)
    (hq : (f (s.line k)).normalQ = (s.line k).normalQ) : Lighter s (s.modLine k f) := by
  refine ⟨fun j => ?_, fun j => ?_, fun _ => Nat.le_refl _⟩
  · unfold State.engine; rw [State.line_modLine]; split
    · next e => rw [e]; exact he
    · rfl
  · rw [State.line_modLine]; split
    · next e => rw [e]; exact hq
    · rfl

theorem dropRef_lighter (i : SlotIx) (s : State) : Lighter s (dropRef i s) := by
  unfold dropRef
  dsimp only
  split
  · refine Lighter.trans (Lighter.modSlot s i _ ?_) (Lighter.modPool _ _)
    exact id
  · exact Lighter.modSlot s i _ id

theorem allocate_lighter {a : Option Line} {s t : State} {i : SlotIx}
    (h : allocate a s = some (i, t)) : Lighter s t := by
  unfold allocate at h
  split at h <;> cases h
  refine Lighter.trans (Lighter.modPool _ _) (Lighter.modSlot _ _ _ ?_)
  exact id

theorem routeNotice_lighter (i : SlotIx) (s : State) : Lighter s (routeNotice i s) := by
  have hc : ∀ c s, Lighter s (countRelayInEmission c s) := by
    intro c s
    unfold countRelayInEmission
    dsimp only
    split <;> exact Lighter.of_eq rfl rfl
  have ho : ∀ j i s, Lighter s (offerUrgent j i s).1 := by
    intro j i s
    unfold offerUrgent
    dsimp only
    split
    · dsimp only
      apply Lighter.modLine s j <;> rfl
    · exact Lighter.refl s
  unfold routeNotice
  split
  · dsimp only
    split
    · exact (Lighter.modFrame s i _ id).trans (ho _ _ _)
    · exact ((Lighter.modFrame s i _ id).trans (ho _ _ _)).trans (dropRef_lighter _ _)
  · exact (hc _ _).trans (dropRef_lighter _ _)
  · exact (hc _ _).trans (dropRef_lighter _ _)

theorem emitNotice_lighter (s : State) : Lighter s (emitNotice s) := by
  unfold emitNotice
  split
  · exact Lighter.refl s
  · next h =>
    dsimp only
    refine Lighter.trans ?_ (Lighter.modNotice _ _)
    refine Lighter.trans ?_ (routeNotice_lighter _ _)
    refine Lighter.trans ?_ (Lighter.modNotice _ _)
    refine Lighter.trans ?_ (Lighter.modFrame _ _ _ (fun e => by simp [noticeFrame, Frame.confirmedData] at e))
    exact ((allocate_lighter h).trans (Lighter.modPool _ _)).trans (Lighter.modNotice _ _)

theorem emissionTest_lighter (s : State) : Lighter s (emissionTest s) := by
  unfold emissionTest
  split
  · split
    · exact Lighter.refl s
    · split
      · exact Lighter.of_eq rfl rfl
      · exact emitNotice_lighter s
  · exact Lighter.of_eq rfl rfl

theorem noteEvent_lighter (q : NoticeKind) (l : Option Line) (v : Option Addr) (s : State) :
    Lighter s (noteEvent q l v s) :=
  (Lighter.of_eq (s := s) (t := recordEvent q l v s) rfl rfl).trans (emissionTest_lighter _)

theorem countLine_lighter (k : Line) (c : LineCounter) (s : State) : Lighter s (countLine k c s) := by
  have h : Lighter s (s.bumpLine k c) := Lighter.modLine s k _ rfl rfl
  unfold countLine
  dsimp only
  split
  · exact h.trans (noteEvent_lighter _ _ _ _)
  · exact h

theorem countRelay_lighter (c : RelayCounter) (s : State) : Lighter s (countRelay c s) := by
  have h : Lighter s (s.bumpRelay c) := Lighter.of_eq rfl rfl
  unfold countRelay
  dsimp only
  split
  · exact h.trans (noteEvent_lighter _ _ _ _)
  · exact h

theorem grantTo_lighter (k : Line) (s : State) : Lighter s (grantTo k s) := by
  unfold grantTo
  split
  · exact Lighter.refl s
  · next h =>
    dsimp only
    refine (allocate_lighter h).trans (Lighter.trans (Lighter.modPool _ _) (Lighter.modLine _ k _ ?_ ?_)) <;> rfl

theorem poolService_lighter (s : State) : Lighter s (poolService s) := by
  have h1 : ∀ s, Lighter s (grantOne s) := by
    intro s
    unfold grantOne
    split
    · split
      · exact grantTo_lighter _ s
      · exact Lighter.refl s
    · exact Lighter.refl s
  have h2 : ∀ s, Lighter s (grantWaiters s) := by
    intro s
    unfold grantWaiters
    induction allLines generalizing s with
    | nil => exact Lighter.refl s
    | cons a l ih => exact (h1 s).trans (ih _)
  unfold poolService
  refine Lighter.trans ?_ (h2 _)
  unfold serveNotice
  split
  · exact emitNotice_lighter s
  · exact Lighter.refl s

theorem releaseRef_lighter (i : SlotIx) (s : State) : Lighter s (releaseRef i s) :=
  (dropRef_lighter i s).trans (poolService_lighter _)

/-! ## The work as a sum -/

/-- The work of one line, read from its record. -/
def LineRec.workOf (w : SlotIx → Nat) (l : LineRec) : Nat :=
  (if l.tp.isNone then 1 else 0) + (if l.pauseTimer.isNone then 1 else 0) + (l.normalQ.map w).sum

theorem State.lineWork_eq (s : State) (k : Line) : s.lineWork k = (s.line k).workOf s.weight := rfl

theorem State.work_eq (s : State) : s.work =
    s.lineWork 0 + s.lineWork 1 + s.lineWork 2 + s.lineWork 3 + s.lineWork 4 + s.lineWork 5 +
      s.lineWork 6 + s.lineWork 7 := by
  simp [State.work, allLines]
  omega

/-- Work is compared line by line. -/
theorem State.work_le {s t : State} (h : ∀ k, t.lineWork k ≤ s.lineWork k) : t.work ≤ s.work := by
  rw [State.work_eq, State.work_eq]
  have := h 0; have := h 1; have := h 2; have := h 3; have := h 4; have := h 5; have := h 6; have := h 7
  omega

/-- The work after an update of one line. -/
theorem State.work_modLine (s : State) (k : Line) (f : LineRec → LineRec) :
    (s.modLine k f).work + s.lineWork k = s.work + (f (s.line k)).workOf s.weight := by
  have ho : ∀ j, j ≠ k → (s.modLine k f).lineWork j = s.lineWork j := by
    intro j h
    rw [State.lineWork_eq, State.lineWork_eq, State.line_modLine_ne s j k f h]; rfl
  have hk : (s.modLine k f).lineWork k = (f (s.line k)).workOf s.weight := by
    rw [State.lineWork_eq, State.line_modLine_same]; rfl
  rw [← hk, State.work_eq, State.work_eq]
  have H : ∀ j, j = k ∨ (s.modLine k f).lineWork j = s.lineWork j := fun j => by
    by_cases h : j = k
    · exact .inl h
    · exact .inr (ho j h)
  generalize (s.modLine k f).lineWork = a at *
  generalize s.lineWork = b at *
  fin_cases k <;>
    (have e0 := ho 0; have e1 := ho 1; have e2 := ho 2; have e3 := ho 3
     have e4 := ho 4; have e5 := ho 5; have e6 := ho 6; have e7 := ho 7
     simp at *
     omega)

theorem sum_map_le {α : Type} {f g : α → Nat} (h : ∀ a, f a ≤ g a) (l : List α) :
    (l.map f).sum ≤ (l.map g).sum := by
  induction l with
  | nil => exact Nat.le_refl _
  | cons a l ih => simp only [List.map_cons, List.sum_cons]; have := h a; omega

theorem Lighter.work {s t : State} (h : Lighter s t) : t.work ≤ s.work := by
  apply State.work_le
  intro k
  have he := h.engine k
  simp only [State.engine, LineRec.engine, EngineView.mk.injEq] at he
  obtain ⟨h1, -, -, -, -, -, h7, -⟩ := he
  rw [State.lineWork_eq, State.lineWork_eq]
  unfold LineRec.workOf
  rw [h1, h7, h.queue k]
  have := sum_map_le h.weight (s.line k).normalQ
  omega

/-! ## What each choice does to the work -/

theorem modLine_work_le (s : State) (k : Line) (f : LineRec → LineRec)
    (h : (f (s.line k)).workOf s.weight ≤ (s.line k).workOf s.weight) : (s.modLine k f).work ≤ s.work := by
  have := State.work_modLine s k f
  rw [State.lineWork_eq] at this
  omega

theorem modLine_work_lt (s : State) (k : Line) (f : LineRec → LineRec)
    (h : (f (s.line k)).workOf s.weight < (s.line k).workOf s.weight) : (s.modLine k f).work < s.work := by
  have := State.work_modLine s k f
  rw [State.lineWork_eq] at this
  omega

theorem workOf_tp_le (w : SlotIx → Nat) (l l' : LineRec) (hp : l'.pauseTimer = l.pauseTimer)
    (hq : l'.normalQ = l.normalQ) (ht : l'.tp.isSome = true) : l'.workOf w ≤ l.workOf w := by
  unfold LineRec.workOf
  rw [hp, hq]
  cases h : l'.tp <;> simp [h] at ht ⊢

theorem workOf_tp_lt (w : SlotIx → Nat) (l l' : LineRec) (hp : l'.pauseTimer = l.pauseTimer)
    (hq : l'.normalQ = l.normalQ) (ht : l'.tp.isSome = true) (hn : l.tp = none) :
    l'.workOf w < l.workOf w := by
  unfold LineRec.workOf
  rw [hp, hq, hn]
  cases h : l'.tp <;> simp [h] at ht ⊢

theorem firstSources_work {k : Line} {s t : State} (h : firstSources k s = some t) :
    t.work ≤ s.work ∧ ((s.line k).tp = none → t.work < s.work) := by
  have key : ∀ (u : State) (f g : LineRec → LineRec), Lighter s u → u.line k = s.line k →
      (g (f (s.line k))).pauseTimer = (s.line k).pauseTimer →
      (g (f (s.line k))).normalQ = (s.line k).normalQ →
      (g (f (s.line k))).tp.isSome = true →
      ((u.modLine k f).modLine k g).work ≤ s.work ∧
        ((s.line k).tp = none → ((u.modLine k f).modLine k g).work < s.work) := by
    intro u f g hu hl hp hq ht
    have e : (u.modLine k f).modLine k g = u.modLine k (fun l => g (f l)) := by
      simp [State.modLine]
    have hw := hu.work
    rw [e]
    refine ⟨(modLine_work_le u k _ ?_).trans hw, fun hn => Nat.lt_of_lt_of_le (modLine_work_lt u k _ ?_) hw⟩
    · rw [hl]; exact workOf_tp_le _ _ _ hp hq ht
    · rw [hl]; exact workOf_tp_lt _ _ _ hp hq ht hn
  unfold firstSources at h
  dsimp only at h
  split at h <;> cases h
  · exact key s _ _ (Lighter.refl s) rfl rfl rfl rfl
  · exact key s _ _ (Lighter.refl s) rfl rfl rfl rfl
  · exact key _ _ _ (Lighter.modSlot s _ _ id) rfl rfl rfl rfl

theorem sendNormal_work {k : Line} {s : State} {i : SlotIx} {is : List SlotIx}
    (h : (s.line k).normalQ = i :: is) : (sendNormal k i s).work < s.work := by
  have e : sendNormal k i s = s.modLine k (fun l =>
      { l with
        normalQ := l.normalQ.tail, tp := some (.normal i)
        rx := if l.config.mode = .polled then { l.rx with inChar := false } else l.rx }) := by
    simp [sendNormal, beginTx, State.modLine]
  rw [e]
  apply modLine_work_lt
  have := weight_pos s i
  simp only [LineRec.workOf, h, List.tail_cons, List.map_cons, List.sum_cons]
  simp
  omega

theorem selectDirect_work (k : Line) (s : State) : (selectDirect k s).work ≤ s.work := by
  unfold selectDirect
  split
  · next h => exact (firstSources_work h).1
  · split
    · next h => exact Nat.le_of_lt (sendNormal_work h)
    · exact Nat.le_refl _

/-- A RETURN handed to the route unit adds at most itself to the work. -/
theorem routeReturn_work (i : SlotIx) (s : State) (h : s.weight i = 1) :
    (routeReturn i s).work ≤ s.work + 1 := by
  have le {t : State} (g : Lighter s t) : t.work ≤ s.work + 1 := g.work.trans (Nat.le_succ _)
  unfold routeReturn
  split
  · next j d _ =>
    have hm : Lighter s (s.modFrame i (fun f => { f with dest := d })) := Lighter.modFrame s i _ id
    dsimp only
    unfold admitNormal
    split
    · simp only [if_true]
      have e := State.work_modLine (s.modFrame i (fun f => { f with dest := d })) j
        (fun l => { l with normalQ := l.normalQ ++ [i] })
      have hw := hm.work
      have hi := hm.weight i
      rw [State.lineWork_eq] at e
      simp only [LineRec.workOf, List.map_append, List.sum_append, List.map_cons, List.map_nil,
        List.sum_cons, List.sum_nil] at e
      omega
    · simp only [Bool.false_eq_true, if_false]
      exact le ((hm.trans (countLine_lighter _ _ _)).trans (dropRef_lighter _ _))
  · exact le ((countRelay_lighter _ _).trans (dropRef_lighter _ _))
  · exact le (((countRelay_lighter _ _).trans (noteEvent_lighter _ _ _ _)).trans (dropRef_lighter _ _))

theorem removeAbsentHead_work {k : Line} {s : State} {i : SlotIx} {is : List SlotIx}
    (h : (s.line k).normalQ = i :: is) : (removeAbsentHead k i s).work < s.work := by
  have e := State.work_modLine s k (fun l => { l with normalQ := l.normalQ.tail })
  rw [State.lineWork_eq] at e
  simp only [LineRec.workOf, h, List.tail_cons, List.map_cons, List.sum_cons] at e
  unfold removeAbsentHead
  dsimp only
  generalize ht : s.modLine k (fun l => { l with normalQ := l.normalQ.tail }) = t at e ⊢
  have hf : t.frame i = s.frame i := by rw [← ht]; rfl
  split
  · next hc =>
    have hw : s.weight i = 2 := by unfold State.weight; rw [← hf, if_pos hc]
    have hm : Lighter t (makeReturn .absent i t) :=
      Lighter.modSlot t i _ (fun e => by simp [Frame.toReturn, Frame.confirmedData] at e)
    have h1 : (makeReturn .absent i t).weight i = 1 := by
      simp [State.weight, State.frame, makeReturn, Frame.toReturn, Frame.confirmedData]
    have hr := routeReturn_work i _ h1
    have hp := (poolService_lighter (routeReturn i (makeReturn .absent i t))).work
    have hm := hm.work
    show (poolService _).work < _
    omega
  · have hp := ((releaseRef_lighter i t).trans (countLine_lighter k .qRefused _)).work
    have := weight_pos s i
    omega

theorem serveNormal_work (k : Line) (n : Nat) (s : State) :
    (serveNormal k n s).1.work ≤ s.work ∧
      (0 < n → (s.line k).normalQ ≠ [] → (serveNormal k n s).1.work < s.work) := by
  induction n generalizing s with
  | zero => exact ⟨Nat.le_refl _, fun h => absurd h (by decide)⟩
  | succ n ih =>
    unfold serveNormal
    split
    · next h => exact ⟨Nat.le_refl _, fun _ g => absurd h g⟩
    · next i is h =>
      suffices hlt : ∀ t : State, t.work < s.work → t.work ≤ s.work ∧
          (0 < n + 1 → (s.line k).normalQ ≠ [] → t.work < s.work) by
        split
        · apply hlt
          exact Nat.lt_of_le_of_lt (ih _).1 (removeAbsentHead_work h)
        · apply hlt
          dsimp only
          refine Nat.lt_of_lt_of_le (sendNormal_work (is := is) ?_) (modLine_work_le s k _ (Nat.le_refl _))
          rw [State.line_modLine_same]
          exact h
      exact fun t ht => ⟨Nat.le_of_lt ht, fun _ _ => ht⟩

/-! ## The search for a poll -/

theorem sendPoll_work (k : Line) (n : Nat) (s : State) :
    (sendPoll k n s).work ≤ s.work ∧ ((s.line k).tp = none → (sendPoll k n s).work < s.work) := by
  have e : ∀ f, sendPoll k n s = f → f = s.modLine k (fun l =>
      { l with
        pollPos := n + 1, burst := 0
        tp := some (.poll (pollFrame s.route.relayAddr ((s.line k).nodeAt n)))
        rx := if l.config.mode = .polled then { l.rx with inChar := false } else l.rx }) := by
    rintro _ rfl
    simp [sendPoll, beginTx, State.modLine]
  rw [e _ rfl]
  exact ⟨modLine_work_le s k _ (workOf_tp_le _ _ _ rfl rfl rfl),
    fun h => modLine_work_lt s k _ (workOf_tp_lt _ _ _ rfl rfl rfl h)⟩

theorem passEnded_work (k : Line) (s : State) :
    (s.modLine k LineRec.passEnded).work ≤ s.work ∧
      (0 < (s.line k).config.pollPause → (s.line k).pauseTimer = none →
        (s.modLine k LineRec.passEnded).work < s.work) := by
  refine ⟨modLine_work_le s k _ ?_, fun h1 h2 => modLine_work_lt s k _ ?_⟩
  · unfold LineRec.workOf LineRec.passEnded
    by_cases hz : 0 < (s.line k).config.pollPause
    · simp only [if_pos hz]
      simp
    · simp only [if_neg hz]
      exact Nat.le_refl _
  · unfold LineRec.workOf LineRec.passEnded
    simp only [if_pos h1, h2]
    simp

theorem pollSearch_work (k : Line) (n : Nat) (s : State) : (pollSearch k n s).work ≤ s.work := by
  induction n generalizing s with
  | zero => exact Nat.le_refl _
  | succ n ih =>
    unfold pollSearch
    dsimp only
    split
    · exact Nat.le_refl _
    · split
      · exact (sendPoll_work _ _ _).1
      · exact (ih _).trans (passEnded_work k s).1

/-- At the start of a pass whose cycle count is 0 every entry is eligible. -/
theorem nextPoll_of_cycle_zero {l : LineRec} (hl : l.pollList ≠ []) (hp : l.pollPos = 0)
    (hc : l.cycle = 0#4) : l.nextPoll ≠ none := by
  unfold LineRec.nextPoll
  rw [hp, hc]
  cases h : l.pollList with
  | nil => exact absurd h hl
  | cons e es => simp [List.findIdx?_cons, PollEntry.eligible]

theorem bv4_left (c : BitVec 4) (h : c ≠ 0#4) : (0#4 - (c + 1#4)).toNat + 1 = (0#4 - c).toNat := by
  revert c; decide

/-- From the start of a pass the search polls or pauses within as many passes as the cycle count is short of
coming round to 0. -/
theorem pollSearch_start (k : Line) (n : Nat) (s : State) (hl : (s.line k).pollList ≠ [])
    (ht : (s.line k).tp = none) (hn : (s.line k).pauseTimer = none) (hp : (s.line k).pollPos = 0)
    (hf : (0#4 - (s.line k).cycle).toNat < n) : (pollSearch k n s).work < s.work := by
  induction n generalizing s with
  | zero => exact absurd hf (Nat.not_lt_zero _)
  | succ n ih =>
    unfold pollSearch
    dsimp only
    rw [if_neg (by simp [hl, hn])]
    split
    · exact (sendPoll_work _ _ _).2 ht
    · next hx =>
      by_cases hz : 0 < (s.line k).config.pollPause
      · exact Nat.lt_of_le_of_lt (pollSearch_work _ _ _) ((passEnded_work k s).2 hz hn)
      · have hc : (s.line k).cycle ≠ 0#4 := fun e => nextPoll_of_cycle_zero hl hp e hx
        have hb := bv4_left _ hc
        refine Nat.lt_of_lt_of_le (ih _ ?_ ?_ ?_ ?_ ?_) (passEnded_work k s).1 <;>
          rw [State.line_modLine_same] <;> simp only [LineRec.passEnded]
        · exact hl
        · exact ht
        · rw [if_neg hz]; exact hn
        · omega

theorem pollSearch_lt (k : Line) (s : State) (hl : (s.line k).pollList ≠ [])
    (ht : (s.line k).tp = none) (hn : (s.line k).pauseTimer = none) :
    (pollSearch k searchFuel s).work < s.work := by
  show (pollSearch k (17 + 1) s).work < s.work
  unfold pollSearch
  dsimp only
  rw [if_neg (by simp [hl, hn])]
  split
  · exact (sendPoll_work _ _ _).2 ht
  · by_cases hz : 0 < (s.line k).config.pollPause
    · exact Nat.lt_of_le_of_lt (pollSearch_work _ _ _) ((passEnded_work k s).2 hz hn)
    · refine Nat.lt_of_lt_of_le (pollSearch_start k 17 _ ?_ ?_ ?_ ?_ ?_) (passEnded_work k s).1 <;>
        rw [State.line_modLine_same] <;> simp only [LineRec.passEnded]
      · exact hl
      · exact ht
      · rw [if_neg hz]; exact hn
      · exact Nat.lt_of_lt_of_le (BitVec.isLt _) (by decide)

/-! ## Turns -/

theorem takeTurn_work (k : Line) (s : State) : (takeTurn k s).work ≤ s.work := by
  unfold takeTurn
  split
  · next h => exact (firstSources_work h).1
  · split
    · dsimp only
      split
      · exact (serveNormal_work _ _ _).1
      · exact (pollSearch_work _ _ _).trans (serveNormal_work _ _ _).1
    · exact pollSearch_work _ _ _

theorem attend_work (s : State) (k : Line) : (attend s k).work ≤ s.work := by
  unfold attend
  split
  · exact selectDirect_work k s
  · split
    · exact takeTurn_work k s
    · exact Nat.le_refl _

theorem firstSources_none {k : Line} {s : State} : firstSources k s = none ↔ (s.line k).firstEmpty = true := by
  unfold firstSources LineRec.firstEmpty
  dsimp only
  split <;> simp_all

/-- A line that is not quiet is given less to do by being attended to. -/
theorem attend_work_lt {s : State} {k : Line} (h : (s.line k).quiet = false) :
    (attend s k).work < s.work := by
  unfold LineRec.quiet at h
  unfold attend
  split at h
  · next hs =>
    rw [if_pos hs]
    have ht : (s.line k).tp = none := by
      unfold LineRec.selects at hs; simp at hs; exact hs.2
    unfold selectDirect
    split
    · next hf => exact (firstSources_work hf).2 ht
    · next hf =>
      rw [firstSources_none.1 hf, Bool.true_and, Bool.or_eq_false_iff] at h
      split
      · next hq => exact sendNormal_work hq
      · next hx =>
        exfalso
        have ha : (s.line k).await = .empty := by
          cases e : (s.line k).await <;> simp [e, Await.occupied, Await.slot?] at h ⊢
        cases e : (s.line k).normalQ with
        | nil => simp [e] at h
        | cons i is => exact hx i is ha e
  · next hs =>
    rw [if_neg hs]
    split at h
    · next hk =>
      rw [if_pos hk]
      have ht : (s.line k).tp = none := by
        unfold LineRec.takesTurn at hk; simp at hk; exact hk.1.2
      unfold takeTurn
      split
      · next hf => exact (firstSources_work hf).2 ht
      · next hf =>
        rw [firstSources_none.1 hf, Bool.true_and, Bool.and_eq_false_iff] at h
        by_cases hq : (s.line k).normalQ = [] ∨ ¬ ((s.line k).await = .empty ∧ (s.line k).burstAllows = true)
        · have h' : (s.line k).pollList ≠ [] ∧ (s.line k).pauseTimer = none := by
            rcases h with h | h
            · exfalso
              rcases hq with hq | hq
              · simp [hq] at h
              · apply hq
                constructor
                · cases e : (s.line k).await <;> simp [e, Await.occupied, Await.slot?] at h ⊢
                · cases e : (s.line k).burstAllows <;> simp [e] at h ⊢
            · simpa using h
          split
          · next hg =>
            have hq' : (s.line k).normalQ = [] := hq.resolve_right (fun e => e hg)
            have e1 : serveNormal k (serveFuel (s.line k)) s = (s, false) := by
              rw [show serveFuel (s.line k) = 1 by simp [serveFuel, hq']]
              unfold serveNormal
              rw [hq']
            rw [e1]
            simp only [Bool.false_eq_true, if_false]
            exact pollSearch_lt k s h'.1 ht h'.2
          · exact pollSearch_lt k s h'.1 ht h'.2
        · rw [not_or, not_not] at hq
          rw [if_pos hq.2]
          dsimp only
          have hs := (serveNormal_work k (serveFuel (s.line k)) s).2 (by simp [serveFuel]) hq.1
          split
          · exact hs
          · exact Nat.lt_of_le_of_lt (pollSearch_work _ _ _) hs
    · cases h

/-- A quiet line is left alone. -/
theorem attend_of_quiet {s : State} {k : Line} (h : (s.line k).quiet = true) : attend s k = s := by
  unfold LineRec.quiet at h
  unfold attend
  split at h
  · next hs =>
    rw [if_pos hs]
    rw [Bool.and_eq_true, ← firstSources_none] at h
    unfold selectDirect
    rw [h.1]
    dsimp only
    split
    · next ha hq => rw [ha, hq] at h; simp [Await.occupied, Await.slot?] at h
    · rfl
  · next hs =>
    rw [if_neg hs]
    split at h
    · next hk =>
      rw [if_pos hk]
      rw [Bool.and_eq_true, Bool.and_eq_true, ← firstSources_none] at h
      have hp : ∀ n, pollSearch k n s = s := by
        intro n
        cases n with
        | zero => rfl
        | succ n => unfold pollSearch; dsimp only; rw [if_pos h.2]
      unfold takeTurn
      rw [h.1.1]
      dsimp only
      split
      · next hg =>
        have hq : (s.line k).normalQ = [] := by
          have := h.1.2
          rw [hg.1, hg.2] at this
          simpa [Await.occupied, Await.slot?] using this
        rw [show serveFuel (s.line k) = 1 by simp [serveFuel, hq]]
        rw [show serveNormal k 1 s = (s, false) by unfold serveNormal; rw [hq]]
        simp [hp]
      · exact hp _
    · next hk => rw [if_neg hk]

/-! ## The rounds end -/

theorem attendAll_work {s : State} (h : s.allQuiet = false) : (attendAll s).work < s.work := by
  have le : ∀ (l : List Line) (s : State), (l.foldl attend s).work ≤ s.work := by
    intro l
    induction l with
    | nil => exact fun _ => Nat.le_refl _
    | cons a l ih => exact fun s => (ih _).trans (attend_work s a)
  have lt : ∀ (l : List Line) (s : State), l.all (fun k => (s.line k).quiet) = false →
      (l.foldl attend s).work < s.work := by
    intro l
    induction l with
    | nil => intro s h; cases h
    | cons a l ih =>
      intro s h
      rw [List.foldl_cons]
      cases hq : (s.line a).quiet with
      | false => exact Nat.lt_of_le_of_lt (le _ _) (attend_work_lt hq)
      | true =>
        rw [attend_of_quiet hq]
        apply ih
        simpa [hq] using h
  exact lt allLines s h

/-- Rounds enough leave every line quiet. -/
theorem attendRounds_allQuiet (n : Nat) (s : State) (h : s.work ≤ n) :
    (attendRounds n s).allQuiet = true := by
  induction n generalizing s with
  | zero =>
    cases hq : s.allQuiet with
    | true => exact hq
    | false => exact absurd (attendAll_work hq) (by omega)
  | succ n ih =>
    unfold attendRounds
    split
    · assumption
    · next hq =>
      apply ih
      have := attendAll_work (by simpa using hq)
      omega

theorem State.quiet_of_allQuiet {s : State} (h : s.allQuiet = true) (k : Line) :
    (s.line k).quiet = true := by
  unfold State.allQuiet at h
  rw [List.all_eq_true] at h
  exact h k (by unfold allLines; revert k; decide)

@[simp] theorem attendRounds_agent (n : Nat) (s : State) : (attendRounds n s).agent = s.agent := by
  have hs : ∀ k s, (selectDirect k s).agent = s.agent := by
    intro k s
    unfold selectDirect
    split
    · next h => exact firstSources_agent h
    · split <;> rfl
  have ha : ∀ s k, (attend s k).agent = s.agent := by
    intro s k
    unfold attend
    split
    · exact hs k s
    · split
      · exact takeTurn_agent k s
      · rfl
  have hl : ∀ s, (attendAll s).agent = s.agent := by
    intro s
    unfold attendAll
    induction allLines generalizing s with
    | nil => rfl
    | cons a l ih => exact (ih _).trans (ha s a)
  induction n generalizing s with
  | zero => rfl
  | succ n ih =>
    unfold attendRounds
    split
    · rfl
    · exact (ih _).trans (hl s)

/-! ## After the evaluation of the pool state -/

/-- A line's record with its urgent queue out of account. -/
abbrev LineRec.butUrgent (l : LineRec) : LineRec := { l with urgentQ := [] }

theorem quiet_butUrgent {l : LineRec} (h : l.quiet = true) : l.butUrgent.quiet = true := by
  rw [LineRec.quiet_iff] at h ⊢
  refine ⟨fun a b c => ?_, fun a b c d e f => ?_⟩
  · obtain ⟨p, -, q, r⟩ := h.1 a b c
    exact ⟨p, rfl, q, r⟩
  · obtain ⟨p, -, q, r⟩ := h.2 a b c d e f
    exact ⟨p, rfl, q, r⟩

/-- A line that only an urgent frame keeps from being quiet begins to send it, and the pool is left alone. -/
theorem attend_butUrgent {s : State} (h : ∀ k, (s.line k).butUrgent.quiet = true) (k : Line) :
    (attend s k).pool = s.pool ∧ ∀ j, ((attend s k).line j).butUrgent.quiet = true := by
  cases hu : (s.line k).urgentQ with
  | nil =>
    have e : (s.line k).butUrgent = s.line k := by
      unfold LineRec.butUrgent; rw [← hu]
    have hq := h k
    rw [e] at hq
    rw [attend_of_quiet hq]
    exact ⟨rfl, h⟩
  | cons i is =>
    have hsend : ∀ t, sendUrgent k i s = t → t.pool = s.pool ∧ ∀ j, (t.line j).butUrgent.quiet = true := by
      rintro _ rfl
      refine ⟨rfl, fun j => ?_⟩
      by_cases hj : j = k
      · subst hj
        unfold sendUrgent beginTx
        rw [State.line_modLine_same]
        simp [LineRec.quiet, LineRec.selects, LineRec.takesTurn]
      · unfold sendUrgent beginTx
        rw [State.line_modLine_ne _ j k _ hj, State.line_modLine_ne _ j k _ hj]
        exact h j
    have hf : (s.line k).pendingConf = [] → firstSources k s = some (sendUrgent k i s) := by
      intro hp
      unfold firstSources
      dsimp only
      rw [hp, hu]
    have hk := (LineRec.quiet_iff _).1 (h k)
    unfold attend
    split
    · next hs =>
      have hs' : (s.line k).state = .active ∧ (s.line k).config.mode = .direct ∧ (s.line k).tp = none := by
        simpa [LineRec.selects, and_assoc] using hs
      apply hsend
      unfold selectDirect
      rw [hf (hk.1 hs'.1 hs'.2.1 hs'.2.2).1]
    · split
      · next ht =>
        have ht' : (s.line k).state = .active ∧ (s.line k).config.mode = .polled ∧ (s.line k).tp = none ∧
            (s.line k).rx.phase = .hunt ∧ (s.line k).window = .closed ∧ (s.line k).turnaround = none := by
          simpa [LineRec.takesTurn, LineRec.pastTurnaround, and_assoc] using ht
        obtain ⟨a, b, c, d, e, f⟩ := ht'
        apply hsend
        unfold takeTurn
        rw [hf (hk.2 a b c d e f).1]
      · exact ⟨rfl, h⟩

theorem attendRounds_butUrgent (n : Nat) {s : State} (h : ∀ k, (s.line k).butUrgent.quiet = true) :
    (attendRounds n s).pool = s.pool := by
  have hl : ∀ (l : List Line) (s : State), (∀ k, (s.line k).butUrgent.quiet = true) →
      (l.foldl attend s).pool = s.pool ∧ ∀ k, ((l.foldl attend s).line k).butUrgent.quiet = true := by
    intro l
    induction l with
    | nil => exact fun s h => ⟨rfl, h⟩
    | cons a l ih =>
      intro s h
      have h1 := attend_butUrgent h a
      have h2 := ih _ h1.2
      exact ⟨h2.1.trans h1.1, h2.2⟩
  induction n generalizing s with
  | zero => rfl
  | succ n ih =>
    unfold attendRounds
    split
    · rfl
    · exact (ih (hl allLines s h).2).trans (hl allLines s h).1

/-! ### An event given to the notice unit, seen from lines and pool -/

theorem dropRef_line (i : SlotIx) (s : State) (k : Line) : (dropRef i s).line k = s.line k := by
  unfold dropRef; dsimp only; split <;> rfl

theorem dropRef_free (i : SlotIx) (s : State) :
    (dropRef i s).pool.state = s.pool.state ∧ (dropRef i s).pool.free.length ≤ s.pool.free.length + 1 := by
  unfold dropRef
  dsimp only
  split
  · exact ⟨rfl, by simp⟩
  · exact ⟨rfl, Nat.le_succ _⟩

/-- The hand-over of a NOTICE changes no line but by an urgent frame, and frees at most the NOTICE's slot. -/
theorem routeNotice_keeps (i : SlotIx) (s : State) :
    (∀ k, ((routeNotice i s).line k).butUrgent = (s.line k).butUrgent) ∧
    (routeNotice i s).pool.state = s.pool.state ∧
    (routeNotice i s).pool.free.length ≤ s.pool.free.length + 1 := by
  have hd : ∀ t : State, (∀ k, (t.line k).butUrgent = (s.line k).butUrgent) → t.pool = s.pool →
      (∀ k, ((dropRef i t).line k).butUrgent = (s.line k).butUrgent) ∧
      (dropRef i t).pool.state = s.pool.state ∧
      (dropRef i t).pool.free.length ≤ s.pool.free.length + 1 := by
    intro t hl hp
    have h := dropRef_free i t
    rw [hp] at h
    exact ⟨fun k => by rw [dropRef_line]; exact hl k, h⟩
  have hc : ∀ c, (∀ k, ((countRelayInEmission c s).line k).butUrgent = (s.line k).butUrgent) ∧
      (countRelayInEmission c s).pool = s.pool := by
    intro c
    unfold countRelayInEmission
    dsimp only
    split <;> exact ⟨fun _ => rfl, rfl⟩
  unfold routeNotice
  split
  · next j d _ =>
    dsimp only
    unfold offerUrgent
    dsimp only
    split
    · simp only [if_true]
      refine ⟨fun k => ?_, rfl, Nat.le_succ _⟩
      rw [State.line_modLine]
      split <;> rfl
    · simp only [Bool.false_eq_true, if_false]
      exact hd _ (fun _ => rfl) rfl
  · exact hd _ (hc _).1 (hc _).2
  · exact hd _ (hc _).1 (hc _).2

theorem emitNotice_keeps (s : State) :
    (∀ k, ((emitNotice s).line k).butUrgent = (s.line k).butUrgent) ∧
    (emitNotice s).pool.state = s.pool.state ∧
    (emitNotice s).pool.free.length ≤ s.pool.free.length := by
  unfold emitNotice
  split
  · exact ⟨fun _ => rfl, rfl, Nat.le_refl _⟩
  · next i t h =>
    unfold allocate at h
    split at h <;> cases h
    next rest hf =>
    dsimp only
    generalize hu : (State.modNotice (State.modFrame _ _ _) _) = u
    have hl : ∀ k, u.line k = s.line k := by rw [← hu]; exact fun _ => rfl
    have hs : u.pool.state = s.pool.state := by rw [← hu]; rfl
    have hn : u.pool.free.length + 1 = s.pool.free.length := by rw [← hu, hf]; rfl
    have hk := routeNotice_keeps i u
    refine ⟨fun k => (hk.1 k).trans (by rw [hl k]), hk.2.1.trans hs, ?_⟩
    exact hn ▸ hk.2.2

theorem noteEvent_keeps (q : NoticeKind) (l : Option Line) (v : Option Addr) (s : State) :
    (∀ k, ((noteEvent q l v s).line k).butUrgent = (s.line k).butUrgent) ∧
    (noteEvent q l v s).pool.state = s.pool.state ∧
    (noteEvent q l v s).pool.free.length ≤ s.pool.free.length := by
  unfold noteEvent emissionTest
  split
  · split
    · exact ⟨fun _ => rfl, rfl, Nat.le_refl _⟩
    · split
      · exact ⟨fun _ => rfl, rfl, Nat.le_refl _⟩
      · exact emitNotice_keeps _
  · exact ⟨fun _ => rfl, rfl, Nat.le_refl _⟩

/-- The evaluation leaves the pool in the state its length asks for, and no line other than by an urgent frame
(R48). -/
theorem evaluatePool_keeps (s : State) (h : s.pool.lowMark ≤ s.pool.highMark) :
    (∀ k, ((evaluatePool s).line k).butUrgent = (s.line k).butUrgent) ∧
    (evaluatePool s).pool.evaluated = (evaluatePool s).pool.state := by
  have hg := (evaluatePool_steady s).globals
  have h1 : (evaluatePool s).pool.lowMark = s.pool.lowMark := congrArg Globals.lowMark hg
  have h2 : (evaluatePool s).pool.highMark = s.pool.highMark := congrArg Globals.highMark hg
  rw [Pool.evaluated_eq_iff, h1, h2]
  unfold evaluatePool
  dsimp only
  split
  · next hc =>
    have hk := noteEvent_keeps .poolLow none (some (BitVec.ofNat 16 s.pool.free.length))
      (s.modPool (fun p => { p with state := p.evaluated }))
    refine ⟨hk.1, fun e => ?_, fun _ => ?_⟩
    · rw [hk.2.1] at e
      exact absurd (hc.2.symm.trans e) (by decide)
    · have hlow : s.pool.free.length < s.pool.lowMark := by
        have := hc.2
        unfold Pool.evaluated at this
        rw [hc.1] at this
        simpa using this
      exact Nat.lt_of_le_of_lt hk.2.2 (Nat.lt_of_lt_of_le hlow h)
  · next hc =>
    refine ⟨fun _ => rfl, fun e => ?_, fun e => ?_⟩ <;>
      (simp only [State.modPool_pool, Pool.evaluated] at e ⊢
       unfold Pool.evaluated at hc
       cases hs : s.pool.state <;> simp only [hs] at e hc ⊢ <;> split at e <;> simp_all <;> omega)

/-- The evaluation and the rounds after it settle a state whose lines are quiet and whose agent does not idle over
waiting commands. -/
theorem evaluate_settles (s : State) (h : s.pool.lowMark ≤ s.pool.highMark)
    (hq : ∀ k, (s.line k).quiet = true) (ha : s.agent.state = .idle → s.agent.queue = []) :
    Settled (attendRounds (evaluatePool s).work (evaluatePool s)) := by
  obtain ⟨hl, hp⟩ := evaluatePool_keeps s h
  have he : (evaluatePool s).agent = s.agent := evaluatePool_agent s
  generalize evaluatePool s = t at hl hp he ⊢
  have hu : ∀ k, (t.line k).butUrgent.quiet = true := fun k => by rw [hl k]; exact quiet_butUrgent (hq k)
  have hr := State.quiet_of_allQuiet (attendRounds_allQuiet _ t (Nat.le_refl _))
  have hpool := attendRounds_butUrgent t.work hu
  have hag := attendRounds_agent t.work t
  generalize attendRounds t.work t = u at hr hpool hag ⊢
  rw [← hpool] at hp
  exact ⟨fun k => ((LineRec.quiet_iff _).1 (hr k)).1, fun k => ((LineRec.quiet_iff _).1 (hr k)).2,
    by rw [hag, he]; exact ha, ((Pool.evaluated_eq_iff _).1 hp).1, ((Pool.evaluated_eq_iff _).1 hp).2⟩

/-- The agent that has taken its command does not idle over waiting ones (R132). -/
theorem takeCommand_takes (s : State) :
    (takeCommand s).agent.state = .idle → (takeCommand s).agent.queue = [] := by
  unfold takeCommand
  split
  · split
    · next hq => exact fun _ => hq
    · intro e; cases e
  · next hi => exact fun e => absurd e hi

/-- Every event ends in a settled state (R48, R83, R113, R132). -/
theorem settle_settled (s : State) (h : s.pool.lowMark ≤ s.pool.highMark) : Settled (settle s) := by
  have ha := takeCommand_takes s
  have hp : (takeCommand s).pool = s.pool := by
    unfold takeCommand
    split
    · split <;> rfl
    · rfl
  have e : settle s = attendRounds (evaluatePool (attendRounds (takeCommand s).work (takeCommand s))).work
      (evaluatePool (attendRounds (takeCommand s).work (takeCommand s))) := rfl
  rw [e]
  rw [← hp] at h
  generalize takeCommand s = t at ha h
  have hg := (attendRounds_steady t.work t).globals
  have hq := State.quiet_of_allQuiet (attendRounds_allQuiet _ t (Nat.le_refl _))
  have hag := attendRounds_agent t.work t
  generalize attendRounds t.work t = u at hg hq hag ⊢
  apply evaluate_settles u
  · have h1 : u.pool.lowMark = t.pool.lowMark := congrArg Globals.lowMark hg
    have h2 : u.pool.highMark = t.pool.highMark := congrArg Globals.highMark hg
    rw [h1, h2]; exact h
  · exact hq
  · rw [hag]; exact ha

end Sys2Proof.Machine
end

