-- ==== Sys2Proof/WellFormed.lean ====
section
/-! DEFINITION. Well-formedness of commands. Every operand's type holds exactly the values the spec
gives it (a line is 0 to 7, a strap value 0 to 15 or 0 to 7, a character eight data bits), so no
ill-formed command can be written and there is no check to fail. -/

namespace Sys2Proof

/-- The line a command concerns, for the rows that concern one. -/
def Instr.line? : Instr → Option Line
  | .characterReceived k _ | .gapTimerExpiry k | .quietTimerExpiry k | .receiveCompletion k _
  | .transmitSelection k | .polledTurn k | .transmitCompletion k | .confirmTimerExpiry k
  | .replyWindowExpiry k | .turnaroundEnd k | .pollPauseExpiry k | .faultTimerExpiry k
  | .rxdReturnToMark k | .rxdSpaceInFault k | .recoveryTimerExpiry k | .startBit k _ => some k
  | .rstnAssert | .rstnRelease _ _ | .reservationGrant | .agentTake | .unknownCommand
  | .replyWaitRoom | .ident | .claim | .release | .routeRead | .routeWrite | .routeClear
  | .routeCopy | .routeCommit | .lineRead | .lineSet | .lineReset | .pollRead | .pollWrite
  | .pollRemove | .countRead | .poolRead | .relayRead | .relaySet | .noticeRead | .noticeSet
  | .noticeAck | .restart | .warmRestart | .leaseExpiry | .noticeSlotServed
  | .noticeIntervalExpiry => none

/-- A command is well formed when the line it names, if any, is one of the eight. The operand types
make it hold of every command. -/
def Instr.wellFormed (i : Instr) : Bool :=
  match i.line? with
  | some k => decide (k.val < 8)
  | none => true

end Sys2Proof
end

