-- ==== Sys2Proof/Tests/Slice0.lean ====
section
/-! SUPPORT. Tests on small states built from `State.reset`, with expected results taken from the spec's
tables and worked examples, and for each obligation with hypotheses a witness that meets them. -/

namespace Sys2Proof.Tests

-- One proof at a time: a thread for each kernel evaluation would reserve too much stack.
set_option Elab.async false

open Sys2Proof.Machine

/-! ## States -/

/-- `State.reset` with the record of line `k` changed by `f`. -/
def onLine (k : Line) (f : LineRec → LineRec) : State := State.reset.modLine k f

/-- `State.reset` with line 0 POLLED, two nodes in its poll list (the second ABSENT), changed by `f`. -/
def polled (f : LineRec → LineRec) : State :=
  onLine 0 (fun l => f
    { l with
      config := { l.config with mode := .polled }
      pollList :=
        [{ node := 0x0021#16, presence := .present, miss := 0 },
         { node := 0x0022#16, presence := .absent, miss := 3 }] })

/-- `s` with slot `i` taken from the free list and holding the frame `f`. -/
def withFrame (i : SlotIx) (f : Frame) (s : State) : State :=
  (s.modPool (fun p => { p with free := p.free.erase i })).modSlot i
    (fun x => { x with frame := f, holders := 1 })

/-- A frame from node 0412h with one payload byte. -/
def frameTo (dest : Addr) (kind : Kind) (confirm : Bool) : Frame :=
  { dest := dest, src := 0x0412#16, kind := kind, confirm := confirm, seq := 6#4, len := 1
    payload := [0x55#8] }

/-- A frame without payload from `src` to `dest`. -/
def bareFrame (src dest : Addr) (kind : Kind) : Frame :=
  { dest := dest, src := src, kind := kind, confirm := false, seq := 6#4, len := 0, payload := [] }

/-- A valid route entry that accepts arrivals from every line. -/
def entry (low high : Addr) (target : Target) : RouteEntry :=
  { valid := true, low := low, high := high, target := target, rewrite := .keep, base := 0#16
    arrivals := 0xFF#8, hairpin := false }

/-- `s` with route entry 0 of the active table set to `e`. -/
def withEntry (e : RouteEntry) (s : State) : State :=
  s.modRoute (fun r => { r with active := r.active.set 0 e })

/-- The agent EXECUTING the command with payload `p`, from the claim's holder 0412h on line 0, in slot 0;
line 0's reservation is slot 1. -/
def cmdState (p : List Byte) : State :=
  ((State.reset.modSlot 0 (fun x =>
      { x with
        frame :=
          { dest := 0xFE00#16, src := 0x0412#16, kind := .mgmt, confirm := false, seq := 3#4
            len := p.length, payload := p } })).modSlot 1
    (fun x => { x with arrival := some 0, holders := 1 })).modLine 0
      (fun l => { l with reservation := some 1 })
  |>.modPool (fun q => { q with free := q.free.tail })
  |>.modAgent (fun a =>
      { a with
        state := .executing, current := some 0
        claim := some { holder := 0x0412#16, line := 0 }, lease := some 60 })

/-- The command of `cmdState p`. -/
def cmdOf (p : List Byte) : Cmd :=
  { slot := 0, src := 0x0412#16, arrival := some 0, code := byteAt p 0, tag := byteAt p 1
    ops := p.drop 2, len := p.length }

/-- What `f` reads from the next state of command `i` in state `s`. -/
def after {α : Type} (i : Instr) (s : State) (f : State → α) : Option α :=
  match exec i s with
  | .next t => some (f t)
  | .fault _ => none
  | .refused _ => none

/-- The payload of the reply to the command with payload `p`. -/
def replyTo (i : Instr) (p : List Byte) : Option (List Byte) :=
  after i (cmdState p) (fun t => (t.frame 0).payload)

/-- A good character. -/
def good (b : Byte) : RxChar := { data := b, parity := false, stop := .mark }

theorem cmdState_command (p : List Byte) : (cmdState p).command = some (cmdOf p) := rfl

/-- A command whose payload has the length its code requires is answered by its own part. -/
theorem ready_cmdState (p : List Byte) (h : commandLength (byteAt p 0) = some p.length) :
    Ready (cmdState p) (cmdOf p) where
  up := rfl
  current := rfl
  fresh := rfl
  length := h
  claim := fun _ => rfl

/-! ## Syntax and layouts -/

/-- No ill-formed command can be written: the operand types hold exactly the values the spec gives. -/
theorem test_every_command_wellFormed (i : Instr) : i.wellFormed = true := by
  unfold Instr.wellFormed; split <;> simp

/-- The table gives no row any bits. -/
theorem test_no_word_spells_a_command : decodeTableWord 0 0 = none ∧ decodeTableWord 16 0xA7 = none :=
  ⟨rfl, rfl⟩

/-- The published values of section 1.5. -/
theorem test_crc_published : crcOf [] = 0xFFFF#16 ∧
    crcOf [0x31#8, 0x32#8, 0x33#8, 0x34#8, 0x35#8, 0x36#8, 0x37#8, 0x38#8, 0x39#8] = 0x29B1#16 := by
  decide +kernel

/-- Control bytes of section 12.1 and of the example of section 12.3. -/
theorem test_control_bytes : controlByte .data true 6#4 = 0x16#8 ∧ controlByte .conf false 6#4 = 0x26#8 ∧
    controlByte .notice false 5#4 = 0xC5#8 ∧ controlByte .ret false 4#4 = 0xE4#8 := by decide +kernel

/-- The RETURN for S62 in the example of section 12.3. -/
theorem test_return_example :
    (({ dest := 0x0311#16, src := 0x0412#16, kind := .data, confirm := true, seq := 4#4, len := 2
        payload := [1#8, 2#8] } : Frame).toReturn .absent 0xFE03#16).payload =
      [2#8, 3#8, 0x11#8, 4#8, 0x12#8, 0x14#8, 2#8] := by decide +kernel

/-- The NOTICE of sequence 5 in the example of section 12.3. -/
theorem test_notice_example :
    ({ NoticeUnit.powerOn with
       mask := 0#8
       records := (NoticeUnit.powerOn.records.set 3
         { pending := true, count := 2#8, line := some 5, value := some 0x0312#16 }).set 7
         { pending := true, count := 1#8, line := some 2, value := some 0x3000#16 } } : NoticeUnit).payload =
      [2#8, 3#8, 2#8, 5#8, 3#8, 0x12#8, 7#8, 1#8, 2#8, 0x30#8, 0#8] := by decide +kernel

/-- The character A7h with even parity and two stop bits: start, eight bits least significant first, parity
1 (five ones), stop (R16). -/
theorem test_lead_character :
    charLevels { LineConfig.powerOn true with parity := .even, stopBits := 2 } 0xA7#8 =
      [.space, .mark, .mark, .mark, .space, .space, .mark, .space, .mark, .mark, .mark, .mark] := by
  decide +kernel

/-- The table of the example of section 4.9. -/
def exampleTable : RouteTable :=
  let e (lo hi : Addr) (t : Target) (rw : Rewrite) (b : Addr) (a : LineSet) (h : Bool) : RouteEntry :=
    { valid := true, low := lo, high := hi, target := t, rewrite := rw, base := b, arrivals := a
      hairpin := h }
  (((((State.reset.route.active.set 0
    (e 0x1080#16 0x108F#16 (.line 5) .shift 0x0200#16 0b11#8 false)).set 1
    (e 0x1000#16 0x10FF#16 (.line 2) .keep 0#16 0b1011#8 false)).set 2
    (e 0x1000#16 0x1FFF#16 (.line 3) .keep 0#16 0b1111#8 true)).set 3
    { (e 0#16 0xFFFF#16 .discard .keep 0#16 0#8 false) with valid := false }).set 4
    (e 0x2000#16 0x20FF#16 .discard .keep 0#16 0b1111#8 false)).set 5
    (e 0x2000#16 0x2FFF#16 (.line 1) .shift 0x6000#16 0b1101#8 false)

/-- Frames a to l of Table 4-6. -/
theorem test_table_4_6 :
    let r : RouteUnit :=
      { RouteUnit.powerOn 3#4 with active := exampleTable, defaultAction := .line 0 }
    let d (k : Line) (dest : Addr) : Verdict := decideReceived r k (frameTo dest .data false)
    d 0 0x1084#16 = .forward 5 0x0204#16 ∧ d 3 0x1084#16 = .refuse .filtered ∧
    d 2 0x1050#16 = .refuse .filtered ∧ d 3 0x1050#16 = .forward 2 0x1050#16 ∧
    d 3 0x1A00#16 = .forward 3 0x1A00#16 ∧ d 1 0x2010#16 = .refuse .discarded ∧
    d 0 0x2410#16 = .forward 1 0x6410#16 ∧ d 1 0x2410#16 = .refuse .filtered ∧
    d 0 0x3000#16 = .refuse .hairpin ∧ d 2 0x3000#16 = .forward 0 0x3000#16 ∧
    decideRelay r 0x1084#16 = .forward 5 0x0204#16 ∧
    decideReceived r 0 (frameTo 0xFE03#16 .mgmt false) = .command := by decide +kernel

/-! ## Events -/

/-- IDENT of a part with address FE00h and generation 0 (R148, Table 12-4). -/
theorem test_ident : replyTo .ident [1#8, 7#8] =
    some [1#8, 7#8, 0#8, 0#8, 0x32#8, 8#8, 1#8, 0xFE#8, 0#8, 0#8, 0#8, 0x80#8] := by decide +kernel

/-- LINE-READ of the management line at power-on: Table 2-1's values, ACTIVE, empty queues, a reservation. -/
theorem test_line_read : replyTo .lineRead [9#8, 7#8, 0#8] =
    some [9#8, 7#8, 0#8, 0#8, 1#8, 0#8, 120#8, 0#8, 1#8, 4#8, 2#8, 1#8, 24#8, 0#8, 50#8, 3#8, 20#8, 3#8,
      4#8, 8#8, 0#8, 1#8, 0#8, 0#8, 0#8, 1#8] := by decide +kernel

/-- The reply to a command goes to its arrival line's urgent queue and is sent at once (R136, R82). -/
theorem test_reply_sent : after .relayRead (cmdState [0x11#8, 7#8]) (fun t => (t.line 0).tp) =
    some (some (.urgent 0)) := by decide +kernel

/-- A command of the wrong length (R133, test 3), and one without the claim (R139). -/
theorem test_refusals : replyTo .ident [1#8, 7#8, 0#8] = some [1#8, 7#8, 2#8, 0#8] ∧
    after .release ((cmdState [3#8, 7#8]).modAgent (fun a => { a with claim := none }))
      (fun t => (t.frame 0).payload) = some [3#8, 7#8, 4#8, 0#8] ∧
    replyTo .unknownCommand [0x17#8, 7#8] = some [0x17#8, 7#8, 1#8, 0#8] := by decide +kernel

/-- Step 4 of section 8.8: a commit expecting the generation in force answers OK and the next. -/
theorem test_commit : replyTo .routeCommit [8#8, 23#8, 0#8, 0#8] = some [8#8, 23#8, 0#8, 0#8, 0#8, 1#8] ∧
    replyTo .routeCommit [8#8, 23#8, 0#8, 1#8] = some [8#8, 23#8, 7#8, 0#8, 0#8, 0#8] := by decide +kernel

/-- A repeated command is answered from the cache and not carried out (R144). -/
theorem test_replay :
    let s := (cmdState [8#8, 23#8, 0#8, 0#8]).modAgent (fun a =>
      { a with cache := some { code := 8#8, tag := 23#8, reply := [0#8, 0#8, 0#8, 43#8] } })
    after .routeCommit s (fun t => ((t.frame 0).payload, t.route.generation)) =
      some ([8#8, 23#8, 0#8, 0#8, 0#8, 43#8], 0#16) := by decide +kernel

/-- ROUTE-WRITE writes the shadow alone (R72). -/
theorem test_route_write :
    after .routeWrite (cmdState [5#8, 1#8, 7#8, 1#8, 0x10#8, 0#8, 0x10#8, 0xFF#8, 2#8, 1#8, 2#8, 0#8,
        0xFF#8, 1#8]) (fun t => (t.route.shadow.get 7, (t.route.active.get 7).valid)) =
      some ({ valid := true, low := 0x1000#16, high := 0x10FF#16, target := .line 2, rewrite := .shift
              base := 0x0200#16, arrivals := 0xFF#8, hairpin := true }, false) := by decide +kernel

/-- LINE-SET brings line 2 up DIRECT with divisor 60 and even parity (section 2.7): ACTIVE, a reservation
granted, LINE-CHANGE given. -/
theorem test_line_set_up :
    after .lineSet (cmdState ([0x0A#8, 1#8, 2#8, 0#8, 7#8, 1#8, 0#8, 60#8, 1#8] ++ List.replicate 13 0#8))
      (fun t => ((t.line 2).state, (t.line 2).config.divisor, (t.line 2).config.parity,
        (t.line 2).reservation, (t.notice.records.get 1).line)) =
      some (.active, 60, .even, some 2, some 2) := by decide +kernel

/-- LINE-SET may not close the last way in (R153): LINE-STATE with detail 1. The first named field out of its
range by Table 2-1 gives its operand number: a burst limit of 16 gives 15. -/
theorem test_line_set_refusals :
    replyTo .lineSet ([0x0A#8, 1#8, 0#8, 0#8, 0x40#8] ++ List.replicate 17 0#8) =
      some [0x0A#8, 1#8, 6#8, 1#8] ∧
    replyTo .lineSet ([0x0A#8, 1#8, 0#8, 0x10#8, 0#8] ++ List.replicate 14 0#8 ++ [16#8, 0#8, 0#8]) =
      some [0x0A#8, 1#8, 3#8, 15#8] := by decide +kernel

/-- POLL-WRITE appends at the list's end and answers the new length (R127). -/
theorem test_poll_write : replyTo .pollWrite [0x0D#8, 1#8, 6#8, 0#8, 6#8, 0#8] =
    some [0x0D#8, 1#8, 0#8, 0#8, 1#8] := by decide +kernel

/-- RELAY-SET refuses a high water mark not above the low one, named or not (R158). -/
theorem test_relay_set : replyTo .relaySet [0x12#8, 1#8, 0x10#8, 0#8, 0#8, 0#8, 0#8, 0#8, 24#8, 0#8, 0#8] =
    some [0x12#8, 1#8, 3#8, 7#8] := by decide +kernel

/-- A lead on the management line begins a frame (R25). -/
theorem test_lead : after (.characterReceived 0 (good 0xA7#8)) State.reset
    (fun t => ((t.line 0).rx.phase, (t.line 0).rx.gap)) = some (.head 0, some 4) := by decide +kernel

/-- Step 3 of section 7.8: a window of origin DATA expires with no lead. -/
theorem test_window_expiry :
    let s := withFrame 60 (frameTo 0x0021#16 .data true) (polled (fun l =>
      { l with window := .opened .data 0x0021#16, windowTimer := some 20, await := .waiting 60 }))
    after (.replyWindowExpiry 0) s (fun t => ((t.line 0).await, (t.slot 60).retry, (t.line 0).turnaround,
        (t.line 0).counter .pollMiss, (t.line 0).counter .txRetry)) =
      some (.due 60, 1, some 2, 1#16, 1#16) := by decide +kernel

/-- Step 4 of section 7.8: the turn sends the retransmission with a second reference. -/
theorem test_turnaround_end :
    let s := withFrame 60 (frameTo 0x0021#16 .data true)
      (polled (fun l => { l with turnaround := some 2, await := .due 60 }))
    after (.turnaroundEnd 0) s (fun t => ((t.line 0).tp, (t.line 0).await, (t.slot 60).holders)) =
      some (some (.resend 60), .resending 60, 2) := by decide +kernel

/-- The model's choice of log entry 5 (R113): the turn at the end of the turnaround wait ends the pass and starts
the poll pause, and the frame the burst limit held back goes in the same event. -/
theorem test_turn_after_pass :
    let s := withFrame 60 (frameTo 0x0021#16 .data false) (polled (fun l =>
      { l with
        config := { l.config with pollPause := 10 }
        turnaround := some 2, normalQ := [60], burst := 4, pollPos := 2 }))
    after (.turnaroundEnd 0) s (fun t => ((t.line 0).tp, (t.line 0).burst, (t.line 0).pauseTimer)) =
      some (some (.normal 60), 1, some 10) := by decide +kernel

/-- Step 6 of section 6.7: the confirm timer's expiry makes a retransmission, taken at once. -/
theorem test_confirm_expiry :
    let s := withFrame 12 (frameTo 0x1050#16 .data true)
      (onLine 0 (fun l => { l with confirmTimer := some 50, await := .waiting 12 }))
    after (.confirmTimerExpiry 0) s (fun t => ((t.line 0).await, (t.slot 12).holders,
        (t.line 0).counter .txRetry)) = some (.resending 12, 2, 1#16) := by decide +kernel

/-- The fault timer takes the line to FAULT and FLT low (R22, R24). -/
theorem test_fault : after (.faultTimerExpiry 0) (onLine 0 (fun l => { l with faultTimer := some 100 }))
    (fun t => ((t.line 0).state, t.fltLow, t.de 0)) = some (.fault, true, false) := by decide +kernel

/-- The pool state is evaluated at the end of a flush (R85): with 23 slots free and the pool LOW, the reference the
flush drops brings the list to the high water mark, and the slot that LINE-CHANGE's NOTICE then takes leaves the pool
NORMAL. -/
theorem test_flush_evaluates_pool :
    let s := withEntry (entry 0x0412#16 0x0412#16 (.line 1))
      ((withFrame 60 (frameTo 0x1050#16 .data false) (onLine 0 (fun l =>
          { l with faultTimer := some 100, normalQ := [60] }))).modLine 1 (fun l => { l with state := .active }))
    let s := (s.modPool (fun p => { p with free := p.free.take 23, state := .low })).modNotice (fun n =>
      { n with mask := 0#8, address := 0x0412#16, records := Vector.replicate 8 NoticeRecord.clear })
    after (.faultTimerExpiry 0) s (fun t => (t.pool.free.length, t.pool.state, t.notice.state)) =
      some (23, .normal, .outstanding) := by decide +kernel

/-- A lapse names the former holder (R142). -/
theorem test_lapse : after .leaseExpiry (cmdState [1#8, 0#8]) (fun t => (t.agent.claim,
    (t.notice.records.get 5).line, (t.notice.records.get 5).value)) =
    some (none, some 0, some 0x0412#16) := by decide +kernel

/-- Steps 7 to 10 of section 10.8: an acknowledgement of the sequence in force subtracts and clears. -/
theorem test_notice_ack :
    let s := (cmdState [0x15#8, 1#8, 5#8]).modNotice (fun n =>
      { n with
        seq := 5#4, state := .outstanding, timer := some 1000, listed := [(.nodeLost, 2#8)]
        records := n.records.set 3
          { pending := true, count := 2#8, line := some 5, value := some 0x0312#16 } })
    after .noticeAck s (fun t => ((t.notice.records.get 3).pending, t.notice.state, t.notice.listed)) =
      some (false, .idle, []) := by decide +kernel

/-! ## Witnesses

Each theorem below shows, for the obligation it names, concrete states and operands that meet its
hypotheses, clause by clause and at the boundary values of the ranges. -/

/-! ### The block as a whole, and the invariants -/

/-- A command waits at the front of the queue. -/
def waiting : State := { State.reset with pending := [.characterReceived 0 (good 0xA7#8)] }

theorem witness_StepRunsFrontCommand :
    waiting.pending = .characterReceived 0 (good 0xA7#8) :: [] ∧ State.reset.pending = [] := ⟨rfl, rfl⟩

theorem witness_RstnLowSilencesPart :
    (State.heldInReset { addr := 0#4, msel := 0#3 }).rstnLow = true ∧ Instr.ident ≠ .rstnAssert ∧
      ∀ a m, Instr.ident ≠ .rstnRelease a m := ⟨rfl, by decide, nofun⟩

theorem witness_step : ∃ t, step waiting = .next t := ⟨_, rfl⟩

theorem witness_SettingsStayInRange : SettingsInRange waiting ∧ ∃ t, step waiting = .next t :=
  ⟨by unfold SettingsInRange LineConfig.inRanges; decide +kernel, witness_step⟩

theorem witness_ManagementKeepsWayIn : KeepsWayIn waiting ∧ ∃ t, step waiting = .next t :=
  ⟨by unfold KeepsWayIn; decide +kernel, witness_step⟩

theorem witness_FreeClaimShadowIsActive : ClaimConsistent waiting ∧ ∃ t, step waiting = .next t :=
  ⟨by unfold ClaimConsistent; decide +kernel, witness_step⟩

theorem witness_ActiveTableStaysChecked : ActiveTableChecked waiting ∧ ∃ t, step waiting = .next t :=
  ⟨by unfold ActiveTableChecked; decide +kernel, witness_step⟩

theorem witness_ListsStayBoundedAndUnique :
    QueuesBounded waiting ∧ EntriesUnique waiting ∧ ∃ t, step waiting = .next t :=
  ⟨by unfold QueuesBounded; decide +kernel, by unfold EntriesUnique; decide +kernel, witness_step⟩

theorem offLinesEmpty_waiting : OffLinesEmpty waiting := by
  unfold OffLinesEmpty LineRec.holdsNothing; decide +kernel

theorem witness_OffLinesHoldNothing : OffLinesEmpty waiting ∧ ∃ t, step waiting = .next t :=
  ⟨offLinesEmpty_waiting, witness_step⟩

theorem witness_WindowsOnlyWhilePolling :
    WindowsWhilePolling waiting ∧ WindowsWhilePolling State.reset ∧ ∃ t, step waiting = .next t := by
  have h : ∀ k, (State.reset.line k).window = .closed ∧ (State.reset.line k).tp = none ∧
      (State.reset.line k).windowTimer = none := by decide +kernel
  refine ⟨fun k => ?_, fun k => ?_, witness_step⟩ <;>
  · obtain ⟨hw, ht, hm⟩ := h k
    simp [waiting, State.line] at hw ht hm ⊢
    simp [hw, ht, hm]

theorem noticesConsistent_waiting : NoticesConsistent waiting := by
  refine ⟨by decide +kernel, by decide +kernel, fun q => ?_, by decide +kernel, by decide +kernel⟩
  cases q <;> decide +kernel

theorem witness_NoticesStayConsistent : NoticesConsistent waiting ∧ ∃ t, step waiting = .next t :=
  ⟨noticesConsistent_waiting, witness_step⟩

/-- A state whose engines are empty, or resting in a pause, is settled. -/
theorem settled_of_empty {s : State}
    (h : ∀ k, (s.line k).pendingConf = [] ∧ (s.line k).urgentQ = [] ∧ (s.line k).await = .empty ∧
      (s.line k).normalQ = [] ∧ ((s.line k).pollList = [] ∨ (s.line k).pauseTimer ≠ none))
    (ha : s.agent.queue = [])
    (hp : s.pool.state = .normal ∧ s.pool.lowMark ≤ s.pool.free.length) : Settled s := by
  refine ⟨fun k _ _ _ => ?_, fun k _ _ _ _ _ _ => ?_, fun _ => ha, fun _ => hp.2, fun e => ?_⟩
  · obtain ⟨a, b, c, d, -⟩ := h k
    exact ⟨a, b, by rw [c]; exact fun _ => nofun, fun _ => d⟩
  · obtain ⟨a, b, c, d, e⟩ := h k
    exact ⟨a, b, by rw [c]; exact fun _ => nofun, fun _ _ => d, e⟩
  · rw [hp.1] at e; cases e

/-- A POLLED line in its poll pause, the end of the pause waiting as the next command. -/
def pausing : State :=
  { polled (fun l => { l with pauseTimer := some 10 }) with pending := [.pollPauseExpiry 0] }

theorem witness_PoolLeavesNoneUnserved :
    (PoolServes waiting ∧ ∃ t, step waiting = .next t) ∧
    (SettingsInRange waiting ∧ Settled waiting ∧ ∃ t, step waiting = .next t) ∧
    (SettingsInRange pausing ∧ Settled pausing ∧
      ∃ t, step pausing = .next t ∧ (t.line 0).tp ≠ none) :=
  ⟨⟨by unfold PoolServes; decide +kernel, witness_step⟩,
   ⟨witness_SettingsStayInRange.1, settled_of_empty (by decide +kernel) (by decide +kernel) (by decide +kernel),
    witness_step⟩,
   ⟨by unfold SettingsInRange LineConfig.inRanges; decide +kernel,
    settled_of_empty (by decide +kernel) (by decide +kernel) (by decide +kernel),
    _, rfl, by decide +kernel⟩⟩

theorem witness_ReferencesStayCounted :
    ReferencesCounted waiting ∧ PlacesExclusive waiting ∧ OffLinesEmpty waiting ∧
      NoticesConsistent waiting ∧ ∃ t, step waiting = .next t := by
  refine ⟨by unfold ReferencesCounted; decide +kernel, ?_, offLinesEmpty_waiting,
    noticesConsistent_waiting, witness_step⟩
  unfold PlacesExclusive; decide +kernel

theorem witness_ActiveTableOnlyByCommit :
    (Instr.ident ≠ .routeCommit ∧ Instr.ident ≠ .rstnAssert ∧ (∀ a m, Instr.ident ≠ .rstnRelease a m) ∧
      ∃ t, exec .ident State.reset = .next t) ∧
    (wordAt (cmdOf [8#8, 1#8, 0#8, 0#8]).ops 0 = State.reset.route.generation ∧
      ∀ n : Fin 64, (State.reset.route.shadow.get n).commitOk = true) :=
  ⟨⟨by decide, by decide, nofun, _, rfl⟩, by decide +kernel⟩

/-! ### Frames and characters -/

theorem witness_SentFrameIsRebuilt :
    (frameTo 0x0311#16 .data true).whole ∧ (bareFrame 1#16 2#16 .conf).whole ∧
      ({ Receiver.fresh with phase := .head 0 } : Receiver).phase = .head 0 ∧
      ({ Receiver.fresh with phase := .head 0 } : Receiver).crc = 0xFFFF#16 := by
  unfold Frame.whole; decide +kernel

theorem witness_CharactersOnTheLine :
    let c : LineConfig := { LineConfig.powerOn true with parity := .even, stopBits := 2 }
    let s := onLine 0 (fun l => { l with tp := some (.conf (bareFrame 1#16 2#16 .conf)) })
    (9 + (if (LineConfig.powerOn true).parity = .none then 0 else 1) ≤ 9 ∧
      9 < (LineConfig.powerOn true).charBits) ∧
    (9 + (if c.parity = .none then 0 else 1) ≤ 11 ∧ 11 < c.charBits) ∧
    (s.rstnLow = false ∧ s.txFrame 0 = some (bareFrame 1#16 2#16 .conf)) := by decide +kernel

theorem witness_CharactersOnTheLine_parity :
    parityBit .even 0xA7#8 = some true ∧ parityBit .odd 0xA7#8 = some false ∧
    (LineConfig.powerOn true).stopBits = 1 := by decide +kernel

theorem witness_OutputsFollowLineStates :
    (State.reset.rstnLow = false ∧ (State.reset.line 0).config.mode = .direct) ∧
    (OffLinesEmpty (onLine 0 (fun l => { l with state := .fault })) ∧
      ((onLine 0 (fun l => { l with state := .fault })).line 0).state = .fault) := by
  unfold OffLinesEmpty LineRec.holdsNothing; decide +kernel

theorem witness_OutputsFollowLineStates_polled :
    let sends := polled (fun l => { l with tp := some (.poll (bareFrame 0xFE00#16 0x0021#16 .poll)) })
    (sends.rstnLow = false ∧ (sends.line 0).config.mode = .polled ∧ sends.de 0 = true) ∧
    ((polled id).rstnLow = false ∧ ((polled id).line 0).config.mode = .polled ∧ (polled id).de 0 = false) ∧
    (State.reset.line 1).state = .off := by decide +kernel

/-! ### The receiver -/

/-- Line 0 with its receiver in the given state. -/
def inPhase (p : RxPhase) : State :=
  onLine 0 (fun l => { l with rx := { l.rx with phase := p, gap := some 4 } })

/-- A character with a space where the stop bit should be. -/
def unstopped (b : Byte) : RxChar := { data := b, parity := false, stop := .space }

theorem witness_StartBitStopsTimers :
    State.reset.rstnLow = false ∧ (State.reset.line 0).listening = true ∧
      (State.reset.line 0).rx.inChar = false := by decide +kernel

theorem witness_HuntTakesOnlyTheLead :
    let s := State.reset
    let u := onLine 0 (fun l => { l with reservation := none })
    let lead (c : RxChar) : Prop := classify .none c = .good ∧ c.data = 0xA7#8
    (s.rstnLow = false ∧ (s.line 0).listening = true ∧ (s.line 0).rx.phase = .hunt) ∧
    (u.rstnLow = false ∧ (u.line 0).listening = true ∧ (u.line 0).rx.phase = .hunt) ∧
    (¬ lead (good 0xA6#8) ∧ classify .none (good 0xA6#8) ≠ .brk) ∧
    (lead (good 0xA7#8) ∧ (s.line 0).reservation ≠ none) ∧
    (lead (good 0xA7#8) ∧ (u.line 0).reservation = none) := by decide +kernel

theorem witness_GoodCharacterIsStored :
    (∀ p ∈ [RxPhase.head 0, .head 1, .head 2, .head 3, .head 4, .head 5, .body 0, .body 55, .trail 0],
      (inPhase p).rstnLow = false ∧ ((inPhase p).line 0).listening = true ∧
      ((inPhase p).line 0).reservation = some 0 ∧ ((inPhase p).line 0).rx.phase = p) ∧
    (∀ b ∈ [0#8, 1#8, 56#8], classify .none (good b) = .good) ∧
    (good 0#8).data.toNat = 0 ∧ 0 < (good 1#8).data.toNat ∧ (good 56#8).data.toNat ≤ 56 := by
  decide +kernel

theorem witness_ReceiveErrorAbandonsFrame :
    let even := onLine 0 (fun l =>
      { l with config := { l.config with parity := .even }, rx := { l.rx with phase := .trail 1 } })
    (((inPhase (.head 0)).line 0).listening = true ∧
      ((inPhase (.head 0)).line 0).rx.phase.inFrame = true ∧ classify .none (unstopped 1#8) = .framing) ∧
    ((even.line 0).listening = true ∧ (even.line 0).rx.phase.inFrame = true ∧
      classify (even.line 0).config.parity (good 1#8) = .parity) ∧
    (((inPhase (.head 5)).line 0).listening = true ∧ ((inPhase (.head 5)).line 0).rx.phase = .head 5 ∧
      ((inPhase (.head 5)).line 0).reservation ≠ none ∧ classify .none (good 57#8) = .good ∧
      56 < (good 57#8).data.toNat) ∧
    ((inPhase (.body 0)).rstnLow = false ∧ ((inPhase (.body 0)).line 0).state = .active ∧
      ((inPhase (.body 0)).line 0).rx.phase.inFrame = true ∧
      ((inPhase (.body 0)).line 0).rx.gap ≠ none) := by decide +kernel

theorem witness_SkipEndsAtQuiet :
    let s (brk : Bool) := onLine 0 (fun l =>
      { l with rx := { l.rx with phase := .skip, quiet := some 4, brk := brk } })
    ((s false).rstnLow = false ∧ ((s false).line 0).rx.phase = .skip ∧
      ((s false).line 0).listening = true ∧ classify .none (good 0xA7#8) ≠ .brk) ∧
    (((s false).line 0).state = .active ∧ ((s false).line 0).rx.quiet ≠ none ∧
      ((s false).line 0).rx.brk = false) ∧
    (((s true).line 0).rx.phase = .skip ∧ ((s true).line 0).state = .active ∧
      ((s true).line 0).rx.quiet ≠ none ∧ ((s true).line 0).rx.brk = true) := by decide +kernel

theorem witness_BreakCharacterStartsFaultTimer :
    (unstopped 0#8).stop = .space ∧ (unstopped 0#8).data = 0#8 ∧
    (∀ p ∈ [RxPhase.hunt, .skip, .head 0, .body 55, .trail 1], (inPhase p).rstnLow = false ∧
      ((inPhase p).line 0).listening = true ∧
      (((inPhase p).line 0).rx.phase = .hunt ∨ ((inPhase p).line 0).rx.phase = .skip ∨
        ((inPhase p).line 0).rx.phase.inFrame = true)) := by decide +kernel

/-- The two check bytes of a frame end its check at 0, and another second byte does not. -/
theorem witness_ReceiveCompletionAppliesCheck :
    let f := frameTo 0x0311#16 .data true
    let s := onLine 0 (fun l => { l with
      rx := { l.rx with phase := .trail 1, crc := crcRun 0xFFFF#16 (f.headerBytes ++ f.payload ++ [hiByte f.check]) } })
    (s.rstnLow = false ∧ (s.line 0).listening = true ∧ (s.line 0).rx.phase = .trail 1 ∧
      (s.line 0).reservation = some 0) ∧
    crcByte (s.line 0).rx.crc (loByte f.check) = 0#16 ∧
    crcByte (s.line 0).rx.crc (loByte f.check + 1#8) ≠ 0#16 ∧
    (good (loByte f.check)).data = loByte f.check ∧
    classify (s.line 0).config.parity (good (loByte f.check)) = .good := by decide +kernel

/-- `State.reset` with the frame `f` in line 0's reservation. -/
def arrived (f : Frame) : State := State.reset.modFrame 0 (fun _ => f)

/-- A CONF from the window's node. -/
def owedFrame : Frame := bareFrame 0x0021#16 0x0412#16 .conf

theorem witness_FrameDecisionFirstSteps :
    let dup := (arrived (frameTo 0x0311#16 .data true)).modLine 0
      (fun l => { l with memo := [{ src := 0x0412#16, seq := 6#4 }] })
    let valid (s : State) : Prop := (s.frame 0).invalid s.route.relayAddr = false
    ((arrived (frameTo 0#16 .data false)).frame 0).invalid 0xFE00#16 = true ∧
    (((polled id).line 0).config.mode = .polled ∧ ((polled id).line 0).window = .closed ∧
      (((polled id).modFrame 0 (fun _ => frameTo 0x0311#16 .data true)).frame 0).invalid 0xFE00#16 = false) ∧
    (State.reset.line 0).config.mode = .direct ∧
    (valid (arrived (bareFrame 0x0412#16 0x0311#16 .conf)) ∧
      ((arrived (bareFrame 0x0412#16 0x0311#16 .conf)).frame 0).kind = .conf) ∧
    (valid (arrived (bareFrame 0x0412#16 0xFE00#16 .poll)) ∧
      ((arrived (bareFrame 0x0412#16 0xFE00#16 .poll)).frame 0).kind = .poll) ∧
    (valid dup ∧ (dup.frame 0).kind = .data ∧ (dup.frame 0).confirm = true ∧
      (dup.frame 0).dest ≠ 0xFFFF#16 ∧
      ∃ e ∈ (dup.line 0).memo, e.src = (dup.frame 0).src ∧ e.seq = (dup.frame 0).seq) ∧
    (let s := arrived (frameTo 0x0311#16 .data true)
     valid s ∧ (s.frame 0).kind = .data ∧ ¬ ((s.frame 0).confirm = true ∧ (s.frame 0).dest ≠ 0xFFFF#16 ∧
       ∃ e ∈ (s.line 0).memo, e.src = (s.frame 0).src ∧ e.seq = (s.frame 0).seq)) ∧
    (valid (arrived (frameTo 0x0311#16 .mreply false)) ∧
      ((arrived (frameTo 0x0311#16 .mreply false)).frame 0).kind = .mreply) := by decide +kernel

/-- `State.reset` with every frame routed to line 0 and room there, the frame `f` in its reservation. -/
def admitting (f : Frame) : State :=
  (arrived f).modRoute (fun r => { r with active := r.active.set 0 { entry 1#16 0xFFFE#16 (.line 0) with hairpin := true } })

theorem witness_FrameDecisionFirstSteps_route :
    (let s := admitting (frameTo 0x0311#16 .data true)
     (routeReceived 0 0 (s.setLine 0 { s.line 0 with reservation := none })).2 = true ∧
       (s.frame 0).kind = .data ∧ (s.frame 0).confirm = true ∧ (s.frame 0).dest ≠ 0xFFFF#16) ∧
    (let s := admitting (frameTo 0x0311#16 .data false)
     (routeReceived 0 0 (s.setLine 0 { s.line 0 with reservation := none })).2 = true ∧
       (s.frame 0).confirm = false) ∧
    (let s := State.reset.modPool (fun q => { q with free := [1, 2, 3] })
     s.pool.free = 1 :: [2, 3] ∧ s.pool.reserve < s.pool.free.length ∧ s.pool.waiters = 0#8) ∧
    (let s := State.reset.modPool (fun q => { q with free := [1, 2] })
     s.pool.free.length ≤ s.pool.reserve) ∧
    (State.reset.modPool (fun q => { q with waiters := 1#8 })).pool.waiters ≠ 0#8 := by decide +kernel

theorem witness_ConfirmedDeliveryEnds :
    let s := withFrame 12 (frameTo 0x1050#16 .data true) (onLine 0 (fun l => { l with await := .waiting 12 }))
    let matching : Frame := bareFrame 0x1050#16 0x0412#16 .conf
    let m (n : Nat) : List MemoEntry := (List.range n).map (fun j => { src := BitVec.ofNat 16 (j + 1), seq := 0#4 })
    let owed (n : Nat) := onLine 0 (fun l =>
      { l with pendingConf := List.replicate n { dest := 1#16, src := 2#16, seq := 0#4 } })
    (State.reset.line 0).await = .empty ∧
    ((s.line 0).await = .waiting 12 ∧ matching.src = (s.frame 12).dest ∧
      matching.dest = (s.frame 12).src ∧ matching.seq = (s.frame 12).seq) ∧
    ¬ ((bareFrame 2#16 0x0412#16 .conf).src = (s.frame 12).dest) ∧
    (∃ e ∈ m 8, e.src = 8#16) ∧ ((∀ e ∈ m 7, e.src ≠ 8#16) ∧ (m 7).length < 8) ∧
    ((∀ e ∈ m 8, e.src ≠ 9#16) ∧ 8 ≤ (m 8).length ∧ m 8 ≠ []) ∧
    (((owed 3).line 0).pendingConf.length < 4 ∧ 4 ≤ ((owed 4).line 0).pendingConf.length) := by
  decide +kernel

theorem witness_ReplySettlesPresence :
    let s (o : Origin) := polled (fun l => { l with window := .replying o 0x0021#16 })
    let e (p : Presence) (n : Nat) : PollEntry := { node := 1#16, presence := p, miss := n }
    (((s .poll).line 0).config.mode = .polled ∧ ((s .poll).line 0).window = .replying .poll 0x0021#16) ∧
    (((s .data).line 0).config.mode = .polled ∧ ((s .data).line 0).window = .replying .data 0x0021#16) ∧
    (e .absent 3).presence = .absent ∧ (e .suspect 2).presence ≠ .absent ∧ 3 ≤ (e .suspect 2).miss + 1 ∧
    (e .present 0).miss + 1 < 2 := by decide +kernel

/-- A POLLED line 0 inside a reply window, a confirmed frame for its node awaiting. -/
def replying (o : Origin) (a : Await) (retry : Nat) (f : Frame) : State :=
  ((withFrame 60 (frameTo 0x0021#16 .data true) (polled (fun l =>
    { l with window := .replying o 0x0021#16, await := a }))).modSlot 60
      (fun x => { x with retry := retry })).modFrame 0 (fun _ => f)

theorem witness_ReplySettlesPresence_entries :
    let es := ((polled id).line 0).pollList
    findEntry 0x0022#16 es = some { node := 0x0022#16, presence := .absent, miss := 3 } ∧
    findEntry 0x0021#16 es = some { node := 0x0021#16, presence := .present, miss := 0 } ∧
    0 + 1 < ((polled id).line 0).config.missLimit ∧
    (let s := polled (fun l => { l with pollList := [{ node := 1#16, presence := .suspect, miss := 2 }] })
     findEntry 1#16 (s.line 0).pollList = some { node := 1#16, presence := .suspect, miss := 2 } ∧
       (s.line 0).config.missLimit ≤ 2 + 1) ∧
    (∀ e ∈ es, e.node ≠ 0x0033#16) := by decide +kernel

theorem witness_ReplySettlesPresence_await :
    let f := frameTo 0x0311#16 .data true
    (((replying .data (.waiting 60) 2 f).line 0).await = .waiting 60 ∧
      ((replying .data (.waiting 60) 2 f).frame 60).dest = 0x0021#16 ∧
      ((replying .data (.waiting 60) 2 f).slot 60).retry <
        ((replying .data (.waiting 60) 2 f).line 0).config.retryLimit) ∧
    (((replying .data (.waiting 60) 3 f).line 0).config.retryLimit ≤
      ((replying .data (.waiting 60) 3 f).slot 60).retry) ∧
    ((replying .data (.due 60) 3 f).line 0).await = .due 60 ∧
    ((replying .data (.resending 60) 3 f).line 0).await = .resending 60 ∧
    ((replying .poll .empty 0 f).line 0).await = .empty := by decide +kernel

theorem witness_ReplySettlesPresence_windows :
    ((replying .data .empty 0 owedFrame).line 0).window = .replying .data 0x0021#16 ∧
    ((replying .poll .empty 0 owedFrame).line 0).window = .replying .poll 0x0021#16 ∧
    ((polled (fun l => { l with window := .opened .poll 0x0021#16 })).line 0).window =
      .opened .poll 0x0021#16 := by decide +kernel

theorem witness_ReplySettlesPresence_look :
    let valid (s : State) (kind : Kind) : Prop := (s.line 0).config.mode = .polled ∧
      (s.line 0).window = .replying .data 0x0021#16 ∧
      (s.frame 0).invalid s.route.relayAddr = false ∧ (s.frame 0).kind = kind
    let in_ (f : Frame) : State := replying .data (.waiting 60) 0 f
    let dup := (in_ (frameTo 0x0311#16 .data true)).modLine 0
      (fun l => { l with memo := [{ src := 0x0412#16, seq := 6#4 }] })
    valid (in_ (bareFrame 0x0021#16 0x0412#16 .conf)) .conf ∧
    valid (in_ (bareFrame 0x0021#16 0xFE00#16 .poll)) .poll ∧
    valid (in_ (bareFrame 0x0021#16 0xFE00#16 .nil)) .nil ∧
    (valid dup .data ∧ (dup.frame 0).confirm = true ∧ (dup.frame 0).dest ≠ 0xFFFF#16 ∧
      ∃ e ∈ (dup.line 0).memo, e.src = (dup.frame 0).src ∧ e.seq = (dup.frame 0).seq) ∧
    (valid (in_ (frameTo 0x0311#16 .data false)) .data ∧
      ((in_ (frameTo 0x0311#16 .data false)).frame 0).confirm = false) ∧
    valid (in_ (frameTo 0x0311#16 .mreply false)) .mreply := by decide +kernel

/-! ### The slot pool -/

/-- `State.reset` with `n` slots on the free list and the pool in state `p`. -/
def freeSlots (n : Nat) (p : PoolState) : State :=
  State.reset.modPool (fun q => { q with free := q.free.take n, state := p })

theorem witness_FreeListAndPoolState :
    (State.reset.slot 0).holders = 1 ∧
    1 < ((State.reset.modSlot 5 (fun x => { x with holders := 2 })).slot 5).holders ∧
    (1 : SlotIx) ≠ 0 ∧ (freeSlots 1 .normal).pool.free = 1 :: [] ∧
    ((freeSlots 11 .normal).pool.state = .normal ∧
      (freeSlots 11 .normal).pool.free.length < (freeSlots 11 .normal).pool.lowMark) ∧
    (freeSlots 12 .normal).pool.lowMark ≤ (freeSlots 12 .normal).pool.free.length ∧
    ((freeSlots 24 .low).pool.state = .low ∧
      (freeSlots 24 .low).pool.highMark ≤ (freeSlots 24 .low).pool.free.length) ∧
    (freeSlots 23 .low).pool.free.length < (freeSlots 23 .low).pool.highMark := by decide +kernel

theorem witness_GrantIsRoundRobin :
    let s := (freeSlots 3 .low).modPool (fun q => { q with waiters := 0x80#8 })
    s.rstnLow = false ∧ s.pool.reserve < s.pool.free.length ∧ s.pool.waiters ≠ 0#8 := by decide +kernel

theorem witness_BroadcastSharesOneSlot :
    let bc (f : Frame) := (arrived f).modRoute (fun r => { r with broadcastSet := 0x02#8 })
    let s := (bc (frameTo 0xFFFF#16 .data true)).modLine 1 (fun l => { l with state := .active })
    let targets (s : State) := allLines.filter (fun j => LineSet.has s.route.broadcastSet j && decide (j ≠ 0))
    ((bc (frameTo 0xFFFF#16 .mreply false)).frame 0).kind ≠ .data ∧
    targets (arrived (frameTo 0xFFFF#16 .data true)) = [] ∧
    (freeSlots 3 .low).pool.state = .low ∧
    ((s.frame 0).kind = .data ∧ targets s ≠ [] ∧ s.pool.state = .normal ∧ (s.slot 0).holders = 1 ∧
      0 ∉ s.pool.free ∧ (targets s).filter (fun j => (s.line j).admits) ≠ []) ∧
    (let d := bc (frameTo 0xFFFF#16 .data true)
     (d.frame 0).kind = .data ∧ targets d ≠ [] ∧ d.pool.state = .normal ∧ (d.slot 0).holders = 1 ∧
      0 ∉ d.pool.free ∧ (targets d).filter (fun j => (d.line j).admits) = []) := by decide +kernel

/-! ### Notices and routing -/

theorem witness_EventIsRecorded : NoticeKind.restarted ≠ .counterFull ∧ NoticeKind.unrouted ≠ .counterFull := by
  decide

/-- An event pending, unmasked, with an address to report to. -/
def pendingNotice (s : State) : State :=
  s.modNotice (fun n => { n with mask := 0#8, address := 0x0412#16 })

theorem witness_NoticeListsPendingKinds :
    State.reset.pool.free ≠ [] ∧ NoticeKind.restarted ≠ .counterFull ∧
    (let s := State.reset.modNotice (fun n => { n with state := .outstanding, timer := some 1000 })
     s.rstnLow = false ∧ s.notice.timer ≠ none) ∧
    (let s := (pendingNotice State.reset).modPool (fun q => { q with noticeWaiting := true })
     s.rstnLow = false ∧ s.pool.noticeWaiting = true ∧ s.pool.free ≠ []) ∧
    (let s := pendingNotice State.reset
     s.notice.state = .idle ∧ s.notice.address ≠ 0#16 ∧
       (s.notice.records.get NoticeKind.restarted.code).pending = true ∧
       s.notice.mask.getLsbD NoticeKind.restarted.code.val = false ∧ s.pool.noticeWaiting = false) := by
  decide +kernel

theorem witness_NoticeListsPendingKinds_routes :
    let free := (pendingNotice State.reset).pool.free
    free = 1 :: free.tail ∧
    (let s := withEntry (entry 0x0412#16 0x0412#16 (.line 0)) (pendingNotice State.reset)
     decideRelay s.route s.notice.address = .forward 0 0x0412#16 ∧ (s.line 0).state = .active ∧
       (s.line 0).urgentQ.length < 4) ∧
    (let s := withEntry (entry 0x0412#16 0x0412#16 (.line 1)) (pendingNotice State.reset)
     decideRelay s.route s.notice.address = .forward 1 0x0412#16 ∧ (s.line 1).state ≠ .active) ∧
    (let s := withEntry (entry 0x0412#16 0x0412#16 .discard) (pendingNotice State.reset)
     decideRelay s.route s.notice.address = .discard) ∧
    decideRelay (pendingNotice State.reset).route 0x0412#16 = .unrouted := by decide +kernel

/-- A reply waits for line 0, whose urgent queue has room, and a NOTICE is due that is routed there. -/
def roomForOne : State :=
  (withEntry (entry 0x0412#16 0x0412#16 (.line 0)) (pendingNotice (cmdState [1#8, 7#8]))).modLine 0
    (fun l => { l with urgentQ := [9, 9, 9], tp := some (.conf owedFrame) })
  |>.modAgent (fun a => { a with state := .replyWait })
  |>.modNotice (fun n => { n with state := .outstanding, timer := some 1000 })

/-- R137: the NOTICE taken first fills the place, and the agent stays in REPLY-WAIT. -/
theorem test_notice_takes_the_room :
    after .noticeIntervalExpiry roomForOne (fun t => ((t.line 0).urgentQ.length, t.agent.state)) =
      some (4, .replyWait) := by decide +kernel

/-- R137: the reply taken first fills the place, and the agent becomes IDLE. -/
theorem test_reply_takes_the_room :
    after .replyWaitRoom roomForOne (fun t => ((t.line 0).urgentQ, t.agent.state, t.notice.state)) =
      some ([9, 9, 9, 0], .idle, .outstanding) := by decide +kernel

theorem witness_LookupTakesFirstCoveringEntry :
    let one := entry 0x1050#16 0x1050#16 .discard
    let all := entry 1#16 0xFFFE#16 .discard
    let t := (withEntry one State.reset).route.active
    (one.valid = true ∧ one.low = one.high) ∧ (all.valid = true ∧ all.low = 1#16 ∧ all.high = 0xFFFE#16) ∧
    (∀ n : Fin 64, ((t.get n).valid = true ∨ (t.get n).valid = true) → t.get n = t.get n) ∧
    ((t.get 0).covers 0x1050#16 = true ∧ ∀ m : Fin 64, m < 0 → (t.get m).covers 0x1050#16 = false) ∧
    (∀ n : Fin 64, (t.get n).covers 0x1051#16 = false) := by decide +kernel

theorem witness_ReceivedFrameIsRouted :
    let s (e : RouteEntry) := withEntry e (arrived (frameTo 0x0311#16 .data true))
    let e := entry 0x0300#16 0x03FF#16 (.line 0)
    let looked (e : RouteEntry) : Prop :=
      ((s e).frame 0).dest ≠ (s e).route.relayAddr ∧ ((s e).frame 0).dest ≠ 0xFFFF#16 ∧
        lookup (s e).route.active ((s e).frame 0).dest = some e
    let excluding : RouteEntry := { e with arrivals := 0xFE#8 }
    let discarding : RouteEntry := { e with target := .discard }
    let turning : RouteEntry := { e with hairpin := true, rewrite := .shift, base := 0x0600#16 }
    let onward : RouteEntry := { e with target := .line 7 }
    (looked excluding ∧ LineSet.has excluding.arrivals 0 = false) ∧
    (looked discarding ∧ LineSet.has discarding.arrivals 0 = true ∧ discarding.target = .discard) ∧
    (looked e ∧ LineSet.has e.arrivals 0 = true ∧ e.target = .line 0 ∧ e.hairpin = false) ∧
    (looked turning ∧ turning.target = .line 0 ∧ turning.hairpin = true) ∧
    (looked onward ∧ LineSet.has onward.arrivals 0 = true ∧ onward.target = .line 7 ∧ (7 : Line) ≠ 0) ∧
    (let u := arrived (frameTo 0x0311#16 .data true)
     let v (t : Target) := u.modRoute (fun r => { r with defaultAction := t })
     (u.frame 0).dest ≠ u.route.relayAddr ∧ (u.frame 0).dest ≠ 0xFFFF#16 ∧
       lookup u.route.active (u.frame 0).dest = none ∧ u.route.defaultAction = .discard ∧
       (v (.line 0)).route.defaultAction = .line 0 ∧ (v (.line 7)).route.defaultAction = .line 7 ∧
       lookup (v (.line 7)).route.active ((v (.line 7)).frame 0).dest = none) := by decide +kernel

/-- `s` with `n` commands in the agent queue. -/
def queued (n : Nat) (s : State) : State :=
  s.modAgent (fun a => { a with queue := List.replicate n 9 })

theorem witness_BroadcastsAndCommandsAreNotRouted :
    let s := arrived (frameTo 0xFFFF#16 .data true)
    let u := arrived (frameTo 0xFE00#16 .mgmt false)
    let shut := u.modLine 0 (fun l => { l with config := { l.config with mgmtAccepted := false } })
    (s.route.relayAddr ≠ 0xFFFF#16 ∧ (s.frame 0).dest = 0xFFFF#16 ∧ (s.frame 0).kind ≠ .mgmt) ∧
    ((u.frame 0).dest = u.route.relayAddr ∧ (u.line 0).config.mgmtAccepted = true) ∧
    ((arrived (frameTo 0xFFFF#16 .mgmt false)).frame 0).kind = .mgmt ∧
    (shut.line 0).config.mgmtAccepted = false ∧
    (queued 3 u).agent.queue.length < 4 ∧ 4 ≤ (queued 4 u).agent.queue.length := by decide +kernel

theorem witness_RelayOriginatedFrames :
    let s := withFrame 5 (frameTo 0x0311#16 .data true) State.reset
    lookup s.route.active (s.frame 5).dest = none ∧ s.route.defaultAction = .discard ∧
    (s.slot 5).holders = 1 ∧ (6 : SlotIx) ≠ 5 ∧ (s.frame 5).kind = .data ∧ (s.frame 5).confirm = true := by
  decide +kernel

theorem witness_RelayOriginatedFrames_routes :
    (let s := withEntry (entry 0x0311#16 0x0311#16 (.line 0)) (withFrame 5 (frameTo 0x0311#16 .data true) State.reset)
     decideRelay s.route (s.frame 5).dest = .forward 0 0x0311#16) ∧
    (let s := withEntry (entry 0x0311#16 0x0311#16 .discard) (withFrame 5 (frameTo 0x0311#16 .data true) State.reset)
     decideRelay s.route (s.frame 5).dest = .discard) := by decide +kernel

/-- A line that sends the first of three frames and awaits nothing; and one that resends. -/
theorem witness_RelayOriginatedFrames_flush :
    let sends : LineRec := { LineRec.powerOn true with tp := some (.normal 5), normalQ := [6, 7], urgentQ := [8] }
    let resends : LineRec := { LineRec.powerOn true with tp := some (.resend 5), await := .resending 5, normalQ := [6] }
    sends.tp = some (.normal 5) ∧ ([5] ++ [] ++ sends.normalQ).Nodup ∧
    resends.tp = some (.resend 5) ∧ resends.await = .resending 5 ∧ ([] ++ [5] ++ resends.normalQ).Nodup := by
  decide +kernel

/-! ### The line engine -/

/-- A CONF owed. -/
def owed : ConfEntry := { dest := 0x0412#16, src := 0x0311#16, seq := 6#4 }

theorem witness_DirectLineSelectsInOrder :
    let up (s : State) : Prop := s.rstnLow = false ∧ (s.line 0).state = .active ∧
      (s.line 0).config.mode = .direct ∧ (s.line 0).tp = none
    let conf := onLine 0 (fun l => { l with pendingConf := [owed] })
    let urgent := onLine 0 (fun l => { l with urgentQ := [5] })
    let due := onLine 0 (fun l => { l with await := .due 5 })
    let normal := onLine 0 (fun l => { l with normalQ := [5] })
    let held := onLine 0 (fun l => { l with normalQ := [5], await := .waiting 6 })
    (up conf ∧ (conf.line 0).pendingConf = owed :: []) ∧
    (up urgent ∧ (urgent.line 0).pendingConf = [] ∧ (urgent.line 0).urgentQ = 5 :: []) ∧
    (up due ∧ (due.line 0).pendingConf = [] ∧ (due.line 0).urgentQ = [] ∧ (due.line 0).await = .due 5) ∧
    (up normal ∧ (normal.line 0).pendingConf = [] ∧ (normal.line 0).urgentQ = [] ∧
      (normal.line 0).await = .empty ∧ (normal.line 0).normalQ = 5 :: []) ∧
    (up held ∧ (held.line 0).pendingConf = [] ∧ (held.line 0).urgentQ = [] ∧
      (∀ i, (held.line 0).await ≠ .due i) ∧ (held.line 0).await ≠ .empty) ∧
    (up State.reset ∧ (State.reset.line 0).normalQ = []) := by decide +kernel

/-- A POLLED line 0 that is past turnaround and may take a turn. -/
def mayTurn (s : State) : Bool :=
  decide (s.rstnLow = false ∧ (s.line 0).state = .active ∧ (s.line 0).config.mode = .polled ∧
    (s.line 0).tp = none ∧ (s.line 0).rx.phase = .hunt ∧ (s.line 0).window = .closed ∧
    (s.line 0).turnaround = none)

/-- The first three sources of line 0 have nothing to send. -/
def noFirst (s : State) : Bool :=
  decide ((s.line 0).pendingConf = [] ∧ (s.line 0).urgentQ = [] ∧ ∀ i, (s.line 0).await ≠ .due i)

/-- Line 0's normal queue holds a frame for the PRESENT node, one short of the burst limit. -/
def turnNormal : State :=
  withFrame 60 (frameTo 0x0021#16 .data true) (polled (fun l => { l with normalQ := [60], burst := 3 }))

/-- The burst limit is reached. -/
def turnSpent : State := polled (fun l => { l with normalQ := [60], burst := 4 })

/-- The poll position is at the ABSENT node in a recheck pass. -/
def turnRecheck : State := polled (fun l => { l with pollPos := 1, cycle := 8#4 })

/-- The poll position is at the ABSENT node in a pass that passes it over. -/
def turnAtEnd : State :=
  polled (fun l =>
    { l with pollPos := 1, cycle := 7#4, config := { l.config with pollPause := 10 } })

/-- The head of line 0's normal queue is for the ABSENT node. -/
def turnAbsent : State :=
  withFrame 60 (frameTo 0x0022#16 .data true) (polled (fun l => { l with normalQ := [60] }))

theorem witness_PolledLineTakesTurnsInOrder :
    (mayTurn (polled (fun l => { l with pendingConf := [owed] })) = true ∧
      mayTurn (polled (fun l => { l with urgentQ := [5] })) = true ∧
      mayTurn (polled (fun l => { l with await := .due 5 })) = true) ∧
    (mayTurn turnNormal = true ∧ noFirst turnNormal = true ∧ (turnNormal.line 0).await = .empty ∧
      (turnNormal.line 0).normalQ = 60 :: [] ∧
      (turnNormal.line 0).burst < (turnNormal.line 0).config.burstLimit ∧
      ∀ e ∈ (turnNormal.line 0).pollList, e.node = (turnNormal.frame 60).dest → e.presence ≠ .absent) ∧
    (mayTurn (polled id) = true ∧ noFirst (polled id) = true) := by decide +kernel

theorem witness_PolledLineTakesTurnsInOrder_polls :
    (mayTurn turnSpent = true ∧ noFirst turnSpent = true ∧ (turnSpent.line 0).pollList ≠ [] ∧
      (turnSpent.line 0).config.burstLimit ≤ (turnSpent.line 0).burst ∧
      (turnSpent.line 0).pauseTimer = none ∧ (turnSpent.line 0).pollPos ≤ 0 ∧
      ((turnSpent.line 0).pollList[0]?).map PollEntry.presence = some .present) ∧
    (mayTurn turnRecheck = true ∧ noFirst turnRecheck = true ∧ (turnRecheck.line 0).normalQ = [] ∧
      ((turnRecheck.line 0).pollList[1]?).map PollEntry.presence = some .absent ∧
      (turnRecheck.line 0).cycle.toNat % (turnRecheck.line 0).config.recheckCycles = 0) ∧
    (mayTurn turnAtEnd = true ∧ noFirst turnAtEnd = true ∧ (turnAtEnd.line 0).normalQ = [] ∧
      (turnAtEnd.line 0).pauseTimer = none ∧ 0 < (turnAtEnd.line 0).config.pollPause ∧
      ((turnAtEnd.line 0).pollList.drop (turnAtEnd.line 0).pollPos).map PollEntry.presence = [.absent] ∧
      (turnAtEnd.line 0).cycle.toNat % (turnAtEnd.line 0).config.recheckCycles ≠ 0) ∧
    (mayTurn (polled (fun l => { l with pauseTimer := some 10 })) = true ∧
      mayTurn (polled (fun l => { l with pollList := [] })) = true) ∧
    ((turnAbsent.line 0).normalQ = 60 :: [] ∧
      (findEntry (turnAbsent.frame 60).dest (turnAbsent.line 0).pollList).map PollEntry.presence =
        some .absent) := by decide +kernel

/-- The position is past the last entry, the poll pause is 0, and the one node is ABSENT and is checked again
in the third pass. -/
def turnSearch : State :=
  polled (fun l =>
    { l with pollPos := 1, cycle := 5#4, pollList := [{ node := 0x0022#16, presence := .absent, miss := 3 }] })

theorem witness_PolledLineTakesTurnsInOrder_search :
    mayTurn turnSearch = true ∧ noFirst turnSearch = true ∧ (turnSearch.line 0).normalQ = [] ∧
    (turnSearch.line 0).pauseTimer = none ∧ (turnSearch.line 0).config.pollPause = 0 ∧
    (turnSearch.line 0).pollList.drop (turnSearch.line 0).pollPos = [] ∧
    (∀ q ∈ [1, 2], ((turnSearch.line 0).cycle + BitVec.ofNat 4 q).toNat %
      (turnSearch.line 0).config.recheckCycles ≠ 0) ∧
    ((turnSearch.line 0).cycle + BitVec.ofNat 4 3).toNat % (turnSearch.line 0).config.recheckCycles = 0 ∧
    (∀ d ∈ (turnSearch.line 0).pollList, d.presence = .absent) ∧
    after (.polledTurn 0) turnSearch (fun t => ((t.line 0).cycle, (t.line 0).pollPos)) = some (8#4, 1) := by
  decide +kernel

theorem witness_PolledLineTakesTurnsInOrder_absent :
    mayTurn turnAbsent = true ∧ noFirst turnAbsent = true ∧ (turnAbsent.line 0).await = .empty ∧
    (turnAbsent.line 0).burst < (turnAbsent.line 0).config.burstLimit ∧
    (turnAbsent.line 0).normalQ = 60 :: [] ∧
    (findEntry (turnAbsent.frame 60).dest (turnAbsent.line 0).pollList).map PollEntry.presence =
      some .absent ∧
    findEntry (turnNormal.frame 60).dest (turnNormal.line 0).pollList ≠ none := by decide +kernel

theorem witness_TransmitCompletionDisposes :
    let up (s : State) : Prop := s.rstnLow = false ∧ (s.line 0).state = .active ∧
      s.agent.state ≠ .restartPending ∧ s.agent.restartReply = none
    let tx (x : TxItem) := withFrame 60 (frameTo 0x0311#16 .data true) (onLine 0 (fun l => { l with tp := some x }))
    let plain := withFrame 60 (frameTo 0x0311#16 .data false)
      (onLine 0 (fun l => { l with tp := some (.normal 60) }))
    let polledTx := withFrame 60 (frameTo 0x0021#16 .data true)
      (polled (fun l => { l with tp := some (.normal 60) }))
    let resend := withFrame 60 (frameTo 0x0311#16 .data true)
      (onLine 0 (fun l => { l with tp := some (.resend 60), await := .resending 60 }))
    up (tx (.conf owed.toFrame)) ∧ up (tx (.poll (bareFrame 0xFE00#16 0x0021#16 .poll))) ∧
    up (tx (.urgent 60)) ∧
    (up plain ∧ ¬ ((plain.frame 60).kind = .data ∧ (plain.frame 60).confirm = true)) ∧
    (up (tx (.normal 60)) ∧ ((tx (.normal 60)).frame 60).kind = .data ∧
      ((tx (.normal 60)).frame 60).confirm = true ∧ ((tx (.normal 60)).line 0).config.mode = .direct) ∧
    (up polledTx ∧ (polledTx.line 0).config.mode = .polled ∧ (polledTx.frame 60).confirm = true) ∧
    (up resend ∧ (resend.line 0).await = .resending 60) ∧
    (up (tx (.resend 60)) ∧ ((tx (.resend 60)).line 0).await = .empty) := by decide +kernel

/-- A restart waits for the reply in slot 5 while line 0 completes another reply. -/
theorem witness_TransmitCompletionDisposes_restart :
    let s := (onLine 0 (fun l => { l with tp := some (.urgent 60) })).modAgent (fun a =>
      { a with state := .restartPending, restartReply := some 5 })
    s.rstnLow = false ∧ (s.line 0).state = .active ∧ s.agent.restartReply = some 5 ∧
      (s.line 0).tp = some (.urgent 60) ∧ (s.line 0).tp ≠ some (.urgent 5) := by decide +kernel

theorem witness_ConfirmTimerMakesRetryOrReturn :
    let s (n : Nat) := (withFrame 12 (frameTo 0x1050#16 .data true)
      (onLine 0 (fun l => { l with confirmTimer := some 50, await := .waiting 12 }))).modSlot 12
        (fun x => { x with retry := n })
    ((s 2).rstnLow = false ∧ ((s 2).line 0).confirmTimer = some 50 ∧ ((s 2).line 0).await = .waiting 12 ∧
      ((s 2).slot 12).retry < ((s 2).line 0).config.retryLimit) ∧
    ((s 3).line 0).config.retryLimit ≤ ((s 3).slot 12).retry := by decide +kernel

/-- Line 0 with an OPEN window and a confirmed frame awaiting. -/
def openWindowState (o : Origin) (miss : Nat) : State :=
  withFrame 60 (frameTo 0x0021#16 .data true) (polled (fun l =>
    { l with
      window := .opened o 0x0021#16, windowTimer := some 20, await := .waiting 60
      pollList := [{ node := 0x0021#16, presence := .suspect, miss := miss }] }))

theorem witness_WindowExpiryIsAMiss :
    (∀ o ∈ [Origin.poll, .data], (openWindowState o 1).rstnLow = false ∧
      ((openWindowState o 1).line 0).window = .opened o 0x0021#16 ∧
      ((openWindowState o 1).line 0).windowTimer = some 20) ∧
    (let s := openWindowState .data 2
     (s.line 0).await = .waiting 60 ∧ (s.frame 60).dest = 0x0021#16 ∧ 60 ∉ s.pool.free ∧
       findEntry 0x0021#16 (s.line 0).pollList =
         some { node := 0x0021#16, presence := .suspect, miss := 2 } ∧
       (s.line 0).config.missLimit ≤ 2 + 1) := by decide +kernel

theorem witness_LineWaitsAndLevels :
    let fault (r : Level) := onLine 0 (fun l =>
      { l with state := .fault, rxd := r, recovery := if r = .mark then some 50 else none
               rx := Receiver.idleStopped })
    let brk := onLine 0 (fun l => { l with rxd := .space, rx := { l.rx with brk := true } })
    ((polled (fun l => { l with turnaround := some 2 })).line 0).turnaround = some 2 ∧
    ((polled (fun l => { l with pauseTimer := some 10 })).line 0).pauseTimer = some 10 ∧
    (brk.rstnLow = false ∧ (brk.line 0).state = .active ∧ ¬ (brk.line 0).rx.phase = .skip) ∧
    (((fault .space).line 0).state = .fault ∧ ((fault .space).line 0).rxd = .space ∧
      ((fault .space).line 0).rx.brk = false) ∧
    (((fault .mark).line 0).state = .fault ∧ ((fault .mark).line 0).recovery ≠ none) := by decide +kernel

theorem witness_FaultTimerTakesLineDown :
    let s (r : Level) := onLine 0 (fun l => { l with faultTimer := some 100, rxd := r })
    let p := polled (fun l => { l with faultTimer := some 100 })
    (∀ r ∈ [Level.mark, .space], (s r).rstnLow = false ∧ ((s r).line 0).state = .active ∧
      ((s r).line 0).faultTimer = some 100 ∧ (s r).agent.state ≠ .restartPending ∧
      ((s r).line 0).reservation = some 0 ∧ LineSet.has (s r).pool.waiters 0 = false) ∧
    ((p.line 0).config.mode = .polled ∧ (p.line 0).faultTimer = some 100) := by decide +kernel

theorem witness_LineWaitsAndLevels_skip :
    let s := onLine 0 (fun l => { l with rxd := .space, rx := { l.rx with brk := true, phase := .skip } })
    s.rstnLow = false ∧ (s.line 0).state = .active ∧ (s.line 0).rx.brk = true ∧
      (s.line 0).rx.phase = .skip ∧ (s.line 0).rx.quiet = none := by decide +kernel

/-- Line 0's fault timer runs and a restart waits for the reply in slot 5, which `f` and `a` place. -/
def faultWhilePending (current : Option SlotIx) (arrival : Line) (f : LineRec → LineRec) : State :=
  (withFrame 5 (frameTo 0x0412#16 .mreply false)
    (onLine 0 (fun l => f { l with faultTimer := some 100 }))).modSlot 5
      (fun x => { x with arrival := some arrival })
  |>.modAgent (fun a =>
      { a with state := .restartPending, restartReply := some 5, current := current })

theorem witness_FaultTimerTakesLineDown_restart :
    (∀ s ∈ [faultWhilePending none 0 (fun l => { l with tp := some (.urgent 5) }),
        faultWhilePending none 0 (fun l => { l with urgentQ := [5] }),
        faultWhilePending (some 5) 0 id, faultWhilePending (some 5) 1 id],
      s.rstnLow = false ∧ (s.line 0).state = .active ∧ (s.line 0).faultTimer = some 100 ∧
        s.agent.state = .restartPending ∧ s.agent.restartReply = some 5) ∧
    (let s := faultWhilePending (some 5) 0 id
     s.agent.current = some 5 ∧ (s.slot 5).arrival = some 0 ∧ 5 ∉ (s.line 0).refs ∧ 5 ∉ s.pool.free) ∧
    (let s := faultWhilePending (some 5) 1 id
     5 ∉ (s.line 0).refs ∧ (s.slot 5).arrival ≠ some 0 ∧ 5 ∉ s.pool.free) := by decide +kernel

/-! ### The agent and its commands -/

/-- Command 11h's reply about to be offered while line 0's urgent queue holds `n` references. -/
def offering (n : Nat) (st : AgentState) : State :=
  ((cmdState [0x11#8, 0#8]).modLine 0 (fun l => { l with urgentQ := List.replicate n 9 })).modAgent
    (fun a => { a with state := st })

theorem witness_AgentTakesAndOffers :
    ((queued 1 State.reset).rstnLow = false ∧ (queued 1 State.reset).agent.state = .idle ∧
      (queued 1 State.reset).agent.queue = 9 :: []) ∧
    (∀ n ∈ [3, 4], (offering n .executing).agent.current = some 0 ∧
      ((offering n .executing).slot 0).arrival = some 0 ∧
      ((offering n .executing).line 0).state = .active ∧
      ((offering n .executing).line 0).urgentQ.length = n) ∧
    (let s := (cmdState [0x11#8, 0#8]).modLine 0 (fun l => { l with state := .fault })
     s.agent.current = some 0 ∧ (s.slot 0).arrival = some 0 ∧ (s.line 0).state ≠ .active ∧
       s.agent.state ≠ .restartPending ∧ s.agent.restartReply = none) ∧
    ((offering 3 .replyWait).rstnLow = false ∧ (offering 3 .replyWait).agent.state = .replyWait ∧
      (offering 3 .replyWait).agent.current = some 0) := by decide +kernel

theorem witness_AgentTakesAndOffers_restart :
    let s := (offering 3 .restartPending).modAgent (fun a => { a with restartReply := some 0 })
    let down := s.modLine 0 (fun l => { l with state := .fault })
    (s.rstnLow = false ∧ s.agent.state = .restartPending ∧ s.agent.current = some 0 ∧
      s.agent.restartReply = some 0 ∧ (s.slot 0).arrival = some 0 ∧ (s.line 0).state = .active) ∧
    (down.agent.restartReply = some 0 ∧ (down.slot 0).arrival = some 0 ∧
      (down.line 0).state ≠ .active) := by decide +kernel

theorem witness_CommandTestsRefuseOrReplay :
    (let p : List Byte := [1#8, 7#8, 0#8]
     commandCode? .ident = some 1#8 ∧ commandLength 1#8 = some 2 ∧ (cmdState p).rstnLow = false ∧
       (cmdState p).command = some (cmdOf p) ∧ (cmdOf p).code = 1#8 ∧
       (cmdOf p).replay (cmdState p).agent = none ∧ (cmdOf p).len ≠ 2) ∧
    (let p : List Byte := [3#8, 7#8]
     let free := (cmdState p).modAgent (fun a => { a with claim := none })
     let other := (cmdState p).modAgent (fun a => { a with claim := some { holder := 0x0500#16, line := 0 } })
     commandCode? .release = some 3#8 ∧ commandLength 3#8 = some 2 ∧ (cmdOf p).len = 2 ∧
       (cmdOf p).needsClaim = true ∧ free.agent.claim = none ∧ free.command = some (cmdOf p) ∧
       (cmdOf p).replay free.agent = none ∧ other.agent.claim = some { holder := 0x0500#16, line := 0 } ∧
       other.command = some (cmdOf p) ∧ (cmdOf p).replay other.agent = none ∧
       ¬ ((cmdOf p).src = 0x0500#16 ∧ (cmdOf p).arrival = some 0)) ∧
    (∀ b ∈ [0#8, 0x17#8, 0xFF#8], (cmdState [b, 0#8]).command = some (cmdOf [b, 0#8]) ∧
      commandLength (cmdOf [b, 0#8]).code = none ∧
      (cmdOf [b, 0#8]).replay (cmdState [b, 0#8]).agent = none) ∧
    (let p : List Byte := [8#8, 23#8, 0#8, 0#8]
     let s := (cmdState p).modAgent (fun a =>
       { a with cache := some { code := 8#8, tag := 23#8, reply := [0#8, 0#8, 0#8, 43#8] } })
     s.rstnLow = false ∧ commandCode? .routeCommit = some (cmdOf p).code ∧
       s.command = some (cmdOf p) ∧ s.agent.claim = some { holder := 0x0412#16, line := 0 } ∧
       (cmdOf p).src = 0x0412#16 ∧ (cmdOf p).arrival = some 0 ∧ (cmdOf p).tag = 23#8) := by decide +kernel

/-- The commands that read are ready, with their operands at the ends of their ranges and just beyond. -/
theorem witness_ReadingCommandsReport :
    ∀ p ∈ [[0x01#8, 0#8], [0x10#8, 0#8], [0x11#8, 0#8], [0x13#8, 0#8],
        [0x09#8, 0#8, 0#8], [0x09#8, 0#8, 7#8], [0x09#8, 0#8, 8#8],
        [0x0C#8, 0#8, 7#8, 15#8], [0x0C#8, 0#8, 8#8, 0#8], [0x0C#8, 0#8, 7#8, 16#8],
        [0x04#8, 0#8, 0#8, 0#8], [0x04#8, 0#8, 1#8, 63#8], [0x04#8, 0#8, 2#8, 0#8],
        [0x04#8, 0#8, 1#8, 64#8]],
      Ready (cmdState p) (cmdOf p) := by
  intro p hp
  refine ready_cmdState p ?_
  revert p
  decide

theorem witness_ClaimBeginsAndEnds :
    Ready ((cmdState [2#8, 21#8]).modAgent (fun a => { a with claim := none })) (cmdOf [2#8, 21#8]) ∧
    Ready (cmdState [2#8, 21#8]) (cmdOf [2#8, 21#8]) ∧
    Ready ((cmdState [2#8, 21#8]).modAgent (fun a =>
      { a with claim := some { holder := 0x0412#16, line := 1 } })) (cmdOf [2#8, 21#8]) ∧
    Ready (cmdState [3#8, 24#8]) (cmdOf [3#8, 24#8]) ∧
    (cmdOf [2#8, 21#8]).arrival = some 0 ∧
    (cmdState [3#8, 24#8]).agent.claim = some { holder := 0x0412#16, line := 0 } ∧
    (cmdState [3#8, 24#8]).agent.lease = some 60 := by
  refine ⟨?_, ?_, ?_, ?_, by decide +kernel⟩ <;> constructor <;> decide +kernel

theorem witness_RestartFollowsItsReply :
    let p : List Byte := [0x16#8, 9#8]
    let down := (cmdState p).modLine 0 (fun l => { l with state := .fault })
    let due := State.reset.modAgent (fun a => { a with state := .restartPending })
    let sending := (onLine 0 (fun l => { l with tp := some (.urgent 5) })).modAgent (fun a =>
      { a with state := .restartPending, restartReply := some 5 })
    Ready (cmdState p) (cmdOf p) ∧ Ready down (cmdOf p) ∧
    ((cmdOf p).code = 0x16#8 ∧ ((cmdState p).slot 0).arrival = some 0 ∧
      ((cmdState p).line 0).state = .active ∧ (down.slot 0).arrival = some 0 ∧
      (down.line 0).state ≠ .active) ∧
    (due.rstnLow = false ∧ due.agent.state = .restartPending ∧ due.agent.restartReply = none) ∧
    (sending.rstnLow = false ∧ (sending.line 0).state = .active ∧
      (sending.line 0).tp = some (.urgent 5) ∧ sending.agent.state = .restartPending ∧
      sending.agent.restartReply = some 5) := by
  refine ⟨?_, ?_, by decide +kernel⟩ <;> constructor <;> decide +kernel

theorem witness_WarmRestartClearsAndKeeps : SettingsInRange waiting ∧ OffLinesEmpty waiting :=
  ⟨witness_SettingsStayInRange.1, offLinesEmpty_waiting⟩

/-- The part with no line up meets the premises, too. -/
theorem witness_WarmRestartClearsAndKeeps_none :
    let s := State.heldInReset { addr := 0#4, msel := 0#3 }
    SettingsInRange s ∧ OffLinesEmpty s ∧
      allLines.filter (fun k => decide ((s.line k).config.mode ≠ .off)) = [] := by
  refine ⟨?_, ?_, by decide +kernel⟩
  · unfold SettingsInRange LineConfig.inRanges; decide +kernel
  · unfold OffLinesEmpty LineRec.holdsNothing; decide +kernel

/-- The highest-numbered line not OFF is the line last granted after a warm restart (R55). -/
theorem test_restart_lastGranted :
    let t := warmRestart ((State.reset.modLine 5 (fun l =>
      { l with config := { l.config with mode := .direct }, state := .fault })))
    (t.pool.lastGranted, (t.line 0).reservation, (t.line 5).reservation) = (5, some 0, some 1) := by
  decide +kernel

/-- A warm restart that emits its NOTICE on line 0, and one whose NOTICE finds no route. -/
theorem witness_WarmRestartClearsAndKeeps_notice :
    let s := pendingNotice State.reset
    let r := withEntry (entry 0x0412#16 0x0412#16 (.line 0)) s
    let up := allLines.filter (fun k => decide ((s.line k).config.mode ≠ .off))
    up = [0] ∧ (decide (s.notice.address ≠ 0#16) && !s.notice.mask.getLsbD 0) = true ∧
    decideRelay r.route r.notice.address = .forward 0 0x0412#16 ∧ (r.line 0).config.mode ≠ .off ∧
    decideRelay s.route s.notice.address = .unrouted ∧
    (decide (State.reset.notice.address ≠ 0#16) && !State.reset.notice.mask.getLsbD 0) = false ∧
    ((polled id).line 0).config.mode = .polled ∧ (State.reset.line 1).config.mode = .off := by
  decide +kernel

/-- A state whose lines, settings and waiters are those of power-on meets the premises. -/
theorem witness_WarmRestartClearsAndKeeps_premises {s : State} (hl : s.lines = waiting.lines)
    (hp : s.pool = waiting.pool) (ha : s.agent = waiting.agent) (hr : s.route.relayAddr = 0xFE00#16)
    (hn : s.notice.address ≠ 0xFFFF#16 ∧ s.notice.interval = 1000) :
    SettingsInRange s ∧ OffLinesEmpty s := by
  have h := witness_SettingsStayInRange.1
  have e := offLinesEmpty_waiting
  unfold SettingsInRange OffLinesEmpty State.line at *
  rw [hl, hp, ha, hr, hn.2]
  exact ⟨⟨h.1, by decide, by decide, h.2.2.2.1, h.2.2.2.2.1, h.2.2.2.2.2.1, h.2.2.2.2.2.2.1,
    h.2.2.2.2.2.2.2.1, h.2.2.2.2.2.2.2.2.1, h.2.2.2.2.2.2.2.2.2.1, h.2.2.2.2.2.2.2.2.2.2.1, hn.1,
    by decide, by decide⟩, e⟩

theorem witness_WarmRestartClearsAndKeeps_emits :
    SettingsInRange (withEntry (entry 0x0412#16 0x0412#16 (.line 0)) (pendingNotice State.reset)) ∧
    OffLinesEmpty (withEntry (entry 0x0412#16 0x0412#16 (.line 0)) (pendingNotice State.reset)) :=
  witness_WarmRestartClearsAndKeeps_premises rfl rfl rfl rfl ⟨by decide, rfl⟩

theorem witness_WarmRestartClearsAndKeeps_unrouted :
    SettingsInRange (pendingNotice State.reset) ∧ OffLinesEmpty (pendingNotice State.reset) :=
  witness_WarmRestartClearsAndKeeps_premises rfl rfl rfl rfl ⟨by decide, rfl⟩

theorem witness_WarmRestartClearsAndKeeps_polled :
    SettingsInRange (polled id) ∧ OffLinesEmpty (polled id) := by
  constructor
  · unfold SettingsInRange LineConfig.inRanges; decide +kernel
  · unfold OffLinesEmpty LineRec.holdsNothing; decide +kernel

/-- A ROUTE-WRITE payload with the given operands 1, 2, 5, 6 and 9. -/
def routeWrite (n valid target rewrite hairpin : Byte) : List Byte :=
  [5#8, 1#8, n, valid, 0#8, 1#8, 0xFF#8, 0xFE#8, target, rewrite, 0#8, 1#8, 0xFF#8, hairpin]

theorem witness_ShadowEditingCommands :
    ∀ p ∈ [routeWrite 0#8 0#8 0#8 0#8 0#8, routeWrite 63#8 1#8 8#8 1#8 1#8,
        routeWrite 63#8 1#8 7#8 1#8 1#8, routeWrite 64#8 1#8 8#8 1#8 1#8,
        routeWrite 63#8 2#8 8#8 1#8 1#8, routeWrite 63#8 1#8 9#8 1#8 1#8,
        routeWrite 63#8 1#8 8#8 2#8 1#8, routeWrite 63#8 1#8 8#8 1#8 2#8,
        [6#8, 1#8, 63#8], [6#8, 1#8, 0xFF#8], [6#8, 1#8, 64#8], [6#8, 1#8, 0xFE#8], [7#8, 1#8]],
      Ready (cmdState p) (cmdOf p) := by
  intro p hp
  refine ready_cmdState p ?_
  revert p
  decide

theorem witness_CommitChecksThenReplaces :
    let p : List Byte := [8#8, 1#8, 0#8, 0#8]
    let bad (e : RouteEntry) := (cmdState p).modRoute (fun r => { r with shadow := r.shadow.set 63 e })
    let reversed := entry 2#16 1#16 .discard
    let beyond : RouteEntry := { entry 0x8000#16 0x8FFF#16 (.line 3) with rewrite := .shift, base := 0xF001#16 }
    Ready (cmdState p) (cmdOf p) ∧ Ready (bad reversed) (cmdOf p) ∧
    Ready (cmdState [8#8, 1#8, 0#8, 1#8]) (cmdOf [8#8, 1#8, 0#8, 1#8]) ∧
    (word16 (byteAt (cmdOf p).ops 0) (byteAt (cmdOf p).ops 1) = (cmdState p).route.generation ∧
      (∀ n : Fin 64, ((cmdState p).route.shadow.get n).valid = false)) ∧
    word16 0#8 1#8 ≠ (cmdState p).route.generation ∧
    (((bad reversed).route.shadow.get 63).valid = true ∧
      ((bad reversed).route.shadow.get 63).high.toNat < ((bad reversed).route.shadow.get 63).low.toNat ∧
      (∀ m : Fin 64, m < 63 → ((bad reversed).route.shadow.get m).valid = false)) ∧
    (beyond.valid = true ∧ beyond.rewrite = .shift ∧
      0xFFFF < beyond.base.toNat + (beyond.high.toNat - beyond.low.toNat)) := by
  refine ⟨?_, ?_, ?_, by decide +kernel⟩
  · constructor <;> decide +kernel
  · constructor <;> decide +kernel
  · constructor <;> decide +kernel

/-- A poll list of `n` nodes, 0001h upward. -/
def nodes (n : Nat) : List PollEntry :=
  (List.range n).map (fun m => { node := BitVec.ofNat 16 (m + 1), presence := .present, miss := 0 })

/-- Command payload `p` with a poll list of `n` nodes on line 7. -/
def pollState (n : Nat) (p : List Byte) : State :=
  (cmdState p).modLine 7 (fun l => { l with pollList := nodes n, pollPos := 1 })

theorem ready_pollState (n : Nat) (p : List Byte) (h : commandLength (byteAt p 0) = some p.length) :
    Ready (pollState n p) (cmdOf p) where
  up := rfl
  current := rfl
  fresh := rfl
  length := h
  claim := fun _ => rfl

theorem witness_PollListCommands :
    (∀ p ∈ [[0x0D#8, 1#8, 8#8, 0#8, 0#8, 1#8], [0x0D#8, 1#8, 7#8, 0#8, 0#8, 0#8],
        [0x0D#8, 1#8, 7#8, 0#8, 0xFF#8, 0xFF#8], [0x0D#8, 1#8, 7#8, 3#8, 0#8, 9#8],
        [0x0D#8, 1#8, 7#8, 2#8, 0#8, 1#8], [0x0D#8, 1#8, 7#8, 1#8, 0#8, 2#8],
        [0x0D#8, 1#8, 7#8, 16#8, 0#8, 99#8], [0x0D#8, 1#8, 7#8, 15#8, 0#8, 99#8],
        [0x0D#8, 1#8, 7#8, 2#8, 0#8, 99#8], [0x0E#8, 1#8, 8#8, 0#8], [0x0E#8, 1#8, 7#8, 2#8],
        [0x0E#8, 1#8, 7#8, 1#8], [0x0E#8, 1#8, 7#8, 0#8]],
      ∀ n ∈ [2, 15, 16], Ready (pollState n p) (cmdOf p)) ∧
    (∀ n ∈ [2, 15, 16], ((pollState n []).line 7).pollList.length = n) ∧
    (∃ m, m ≠ 2 ∧ ∃ e, (nodes 2)[m]? = some e ∧ e.node = 1#16) ∧
    (∀ e ∈ nodes 16, e.node ≠ 99#16) ∧ (0 < ((pollState 2 []).line 7).pollPos) ∧
    ¬ (1 < ((pollState 2 []).line 7).pollPos) := by
  refine ⟨?_, by decide +kernel, ⟨0, by decide, { node := 1#16, presence := .present, miss := 0 },
    by decide, rfl⟩, by decide +kernel⟩
  intro p hp n _
  refine ready_pollState n p ?_
  revert p
  decide

theorem witness_CountReadReportsAndClears :
    ∀ p ∈ [[0x0F#8, 1#8, 0#8, 0#8], [0x0F#8, 1#8, 7#8, 1#8], [0x0F#8, 1#8, 8#8, 0#8],
        [0x0F#8, 1#8, 8#8, 0xFF#8], [0x0F#8, 1#8, 9#8, 0#8]],
      Ready (cmdState p) (cmdOf p) := by
  intro p hp
  refine ready_cmdState p ?_
  revert p
  decide

theorem witness_CountReadReportsAndClears_counters :
    let s (n : Addr) := onLine 0 (fun l => { l with counters := Vector.replicate 16 n })
    let r (n : Addr) := State.reset.modRoute (fun u => { u with counters := Vector.replicate 7 n })
    (((s 0xFFFE#16).line 0).counter .txSent).toNat = 65534 ∧
    (((s 0xFFFF#16).line 0).counter .txSent).toNat ≠ 65534 ∧
    ((r 0xFFFE#16).route.counter .unrouted).toNat = 65534 ∧
    ((r 0#16).route.counter .unrouted).toNat ≠ 65534 ∧ (0xFFFE#16 : Addr).toNat < 65535 := by decide +kernel

/-- A RELAY-SET payload with the given change set and operands 2 to 8. -/
def relaySet (set : Byte) (addr : Addr) (action bcast reserve low high lease : Byte) : List Byte :=
  [0x12#8, 1#8, set, hiByte addr, loByte addr, action, bcast, reserve, low, high, lease]

/-- Each refusal of RELAY-SET, the values carried out at the ends of their ranges, and a change of
nothing. -/
theorem witness_RelaySetTestsThenWrites :
    ∀ p ∈ [relaySet 1#8 0#16 0#8 0#8 0#8 0#8 0#8 0#8, relaySet 1#8 0xFFFF#16 0#8 0#8 0#8 0#8 0#8 0#8,
        relaySet 2#8 0#16 9#8 0#8 0#8 0#8 0#8 0#8, relaySet 8#8 0#16 0#8 0#8 0#8 0#8 0#8 0#8,
        relaySet 8#8 0#16 0#8 0#8 9#8 0#8 0#8 0#8, relaySet 0x10#8 0#16 0#8 0#8 0#8 2#8 0#8 0#8,
        relaySet 0x10#8 0#16 0#8 0#8 0#8 65#8 0#8 0#8, relaySet 0x20#8 0#16 0#8 0#8 0#8 0#8 12#8 0#8,
        relaySet 0x20#8 0#16 0#8 0#8 0#8 0#8 97#8 0#8, relaySet 0x40#8 0#16 0#8 0#8 0#8 0#8 0#8 4#8,
        relaySet 0x7F#8 1#16 8#8 0xFF#8 8#8 64#8 96#8 255#8,
        relaySet 0x7F#8 0xFFFE#16 7#8 0#8 1#8 2#8 3#8 5#8, relaySet 0#8 0#16 0#8 0#8 0#8 0#8 0#8 0#8],
      Ready (cmdState p) (cmdOf p) := by
  intro p hp
  refine ready_cmdState p ?_
  revert p
  decide

theorem noticesConsistent_cmdState (p : List Byte) : NoticesConsistent (cmdState p) :=
  noticesConsistent_waiting

/-- Each refusal of NOTICE-SET and NOTICE-ACK, and both carried out, the sequence in force being 0. -/
theorem witness_NoticeSettingsAndAcks :
    (∀ p ∈ [[0x14#8, 1#8, 1#8, 0xFF#8, 0xFF#8, 0#8, 0#8, 0#8], [0x14#8, 1#8, 4#8, 0#8, 0#8, 0#8, 0#8, 99#8],
        [0x14#8, 1#8, 4#8, 0#8, 0#8, 0#8, 0x13#8, 0x89#8], [0x14#8, 1#8, 7#8, 0#8, 0#8, 0#8, 0#8, 100#8],
        [0x14#8, 1#8, 7#8, 0xFF#8, 0xFE#8, 0#8, 0x13#8, 0x88#8], [0x15#8, 1#8, 16#8],
        [0x15#8, 1#8, 15#8], [0x15#8, 1#8, 0#8]],
      Ready (cmdState p) (cmdOf p) ∧ NoticesConsistent (cmdState p)) ∧
    (cmdState []).notice.seq = 0#4 := by
  refine ⟨?_, rfl⟩
  intro p hp
  refine ⟨ready_cmdState p ?_, noticesConsistent_cmdState p⟩
  revert p
  decide

/-- A LINE-SET payload for a line with a change set, a mode, a divisor and a management field. -/
def lineSet (k : Byte) (set : Addr) (mode : Byte) (divisor : Addr) (mgmt : Byte) : List Byte :=
  [0x0A#8, 1#8, k, hiByte set, loByte set, mode, hiByte divisor, loByte divisor, 0#8, 0#8, 0#8, 0#8, mgmt,
    0#8, 0#8, 0#8, 0#8, 0#8, 0#8, 0#8, 0#8, 0#8]

/-- Command payload `p` with line 1 ACTIVE and DIRECT, accepting management, beside line 0. -/
def twoLines (p : List Byte) : State :=
  (cmdState p).modLine 1 (fun l =>
    { l with config := { l.config with mode := .direct, mgmtAccepted := true }, state := .active
             rx := Receiver.fresh })

theorem ready_twoLines (p : List Byte) (h : commandLength (byteAt p 0) = some p.length) :
    Ready (twoLines p) (cmdOf p) where
  up := rfl
  current := rfl
  fresh := rfl
  length := h
  claim := fun _ => rfl

/-- A LINE-SET of line 0's burst limit with line 0 POLLED, its burst count at the old limit 4, its poll pause
running and a frame for the PRESENT node at the head of its normal queue. -/
def burstRaised (limit : Byte) : List Byte :=
  [0x0A#8, 1#8, 0#8, 0x10#8, 0#8, 0#8, 0#8, 0#8, 0#8, 0#8, 0#8, 0#8, 0#8, 0#8, 0#8, 0#8, 0#8, 0#8, 0#8, limit,
    0#8, 0#8]

/-- The state before `burstRaised`. -/
def burstHeld (limit : Byte) : State :=
  withFrame 60 (frameTo 0x0021#16 .data true) ((cmdState (burstRaised limit)).modLine 0 (fun l =>
    { l with
      config := { l.config with mode := .polled, pollPause := 10 }
      pollList := [{ node := 0x0021#16, presence := .present, miss := 0 }]
      normalQ := [60], burst := 4, pauseTimer := some 10 }))

/-- A raised burst limit lets the head of the normal queue go before the command's own reply (R154); a limit
that stays leaves the reply the first to be sent. -/
theorem witness_LineSetTestsThenCarriesOut_order :
    after .lineSet (burstHeld 5#8) (fun t => ((t.line 0).tp, (t.line 0).urgentQ)) =
      some (some (.normal 60), [0]) ∧
    after .lineSet (burstHeld 4#8) (fun t => ((t.line 0).tp, (t.line 0).normalQ)) =
      some (some (.urgent 0), [60]) := by decide +kernel

/-- Field `n` of Table 2-1, if the change set names it, is given a value in its range. -/
def fits (ops : List Byte) (n : Nat) : Bool :=
  let o (n : Nat) : Nat := (byteAt ops n).toNat
  let value : List Nat :=
    [o 3, 256 * o 4 + o 5, o 6, o 7, o 8, o 9, o 10, o 11, 256 * o 12 + o 13, o 14, o 15, o 16, o 17, o 18, o 19]
  let least : List Nat := [0, 1, 0, 1, 2, 0, 0, 1, 5, 0, 2, 1, 1, 1, 0]
  let most : List Nat := [2, 4095, 2, 2, 31, 15, 1, 120, 1000, 7, 255, 7, 15, 15, 255]
  !((word16 (byteAt ops 1) (byteAt ops 2)).getLsbD n &&
    decide (value.getD n 0 < least.getD n 0 ∨ most.getD n 0 < value.getD n 0))

theorem witness_LineSetTestsThenCarriesOut_turn :
    (∀ n ∈ [4#8, 5#8], Ready (burstHeld n) (cmdOf (burstRaised n)) ∧
      lineSetRefusal (burstHeld n) 0 (cmdOf (burstRaised n)).ops = none ∧
      ((burstHeld n).line 0).state = .active ∧ mayTurn (burstHeld n) = true ∧
      ((((burstHeld n).line 0).config.changed (cmdOf (burstRaised n)).ops).burstLimit ≠
        ((burstHeld n).line 0).config.burstLimit ↔ n = 5#8)) ∧
    (let p := lineSet 7#8 3#16 2#8 60#16 0#8
     Ready (cmdState p) (cmdOf p) ∧ lineSetRefusal (cmdState p) 7 (cmdOf p).ops = none ∧
       (((cmdState p).line 7).config.changed (cmdOf p).ops).mode = .polled ∧
       ((cmdState p).line 7).tp = none ∧ ((cmdState p).line 7).window = .closed) := by
  refine ⟨?_, ready_cmdState _ (by decide), by decide +kernel⟩
  intro n hn
  refine ⟨⟨rfl, rfl, rfl, rfl, fun _ => rfl⟩, ?_⟩
  revert n
  decide +kernel

theorem witness_LineSetTestsThenCarriesOut :
    (∀ p ∈ [lineSet 8#8 0#16 0#8 0#16 0#8, lineSet 7#8 1#16 3#8 0#16 0#8, lineSet 0#8 2#16 0#8 60#16 0#8,
        lineSet 0#8 1#16 2#8 0#16 0#8, lineSet 0#8 1#16 0#8 0#16 0#8, lineSet 7#8 3#16 1#8 60#16 0#8,
        lineSet 7#8 2#16 0#8 4095#16 0#8, lineSet 1#8 1#16 0#8 0#16 0#8],
      Ready (cmdState p) (cmdOf p) ∧ Ready (twoLines p) (cmdOf p)) ∧
    ¬ fits (cmdOf (lineSet 7#8 1#16 3#8 0#16 0#8)).ops 0 ∧
    (¬ fits (cmdOf (burstRaised 16#8)).ops 12 ∧ ∀ m, m < 12 → fits (cmdOf (burstRaised 16#8)).ops m) ∧
    (¬ fits (cmdOf (burstRaised 0#8)).ops 12 ∧ ∀ n, n < 15 → fits (cmdOf (burstRaised 15#8)).ops n) ∧
    (let p := lineSet 0#8 2#16 0#8 60#16 0#8
     (∀ n, n < 15 → fits (cmdOf p).ops n) ∧ ((cmdState p).line 0).state ≠ .off ∧
       (((cmdState p).line 0).config.changed (cmdOf p).ops).divisor ≠
         ((cmdState p).line 0).config.divisor) ∧
    (let p := lineSet 0#8 1#16 2#8 0#16 0#8
     (∀ n, n < 15 → fits (cmdOf p).ops n) ∧
       (((cmdState p).line 0).config.changed (cmdOf p).ops).mode = .polled ∧
       (((cmdState p).line 0).config.changed (cmdOf p).ops).divisor =
         ((cmdState p).line 0).config.divisor) ∧
    (let p := lineSet 0#8 1#16 0#8 0#16 0#8
     (∀ n, n < 15 → fits (cmdOf p).ops n) ∧
       (((cmdState p).line 0).config.changed (cmdOf p).ops).mode = .off ∧
       ∀ j : Line, j ≠ 0 → ((cmdState p).line j).config.mode = .off) ∧
    (let p := lineSet 7#8 2#16 0#8 4095#16 0#8
     lineSetRefusal (cmdState p) 7 (cmdOf p).ops = none ∧ ((cmdState p).line 7).state = .off ∧
       (((cmdState p).line 7).config.changed (cmdOf p).ops).mode = .off) ∧
    (let p := lineSet 7#8 3#16 1#8 60#16 0#8
     lineSetRefusal (cmdState p) 7 (cmdOf p).ops = none ∧
       (((cmdState p).line 7).config.changed (cmdOf p).ops).mode = .direct) ∧
    (let p := lineSet 1#8 1#16 0#8 0#16 0#8
     lineSetRefusal (twoLines p) 1 (cmdOf p).ops = none ∧ ((twoLines p).line 1).state ≠ .off ∧
       (((twoLines p).line 1).config.changed (cmdOf p).ops).mode = .off) := by
  refine ⟨?_, by decide +kernel⟩
  intro p hp
  have h : commandLength (byteAt p 0) = some p.length := by revert p; decide
  exact ⟨ready_cmdState p h, ready_twoLines p h⟩

theorem witness_LineResetFlushesAndKeepsState :
    (∀ p ∈ [[0x0B#8, 1#8, 8#8], [0x0B#8, 1#8, 7#8], [0x0B#8, 1#8, 0#8]], Ready (cmdState p) (cmdOf p)) ∧
    ((cmdState [0x0B#8, 1#8, 7#8]).line 7).state = .off ∧
    ((cmdState [0x0B#8, 1#8, 0#8]).line 0).state ≠ .off ∧
    (((cmdState [0x0B#8, 1#8, 0#8]).line 0).reservation = some 1 ∧
      LineSet.has (cmdState [0x0B#8, 1#8, 0#8]).pool.waiters 0 = false) := by
  refine ⟨?_, by decide +kernel⟩
  intro p hp
  refine ready_cmdState p ?_
  revert p
  decide

/-- LINE-RESET of a POLLED line and of a line in FAULT. -/
theorem witness_LineResetFlushesAndKeepsState_forms :
    let p : List Byte := [0x0B#8, 1#8, 0#8]
    let poll := (cmdState p).modLine 0 (fun l => { l with config := { l.config with mode := .polled } })
    let fault := (cmdState p).modLine 0 (fun l => { l with state := .fault })
    (Ready poll (cmdOf p) ∧ Ready fault (cmdOf p)) ∧
    ((poll.line 0).config.mode = .polled ∧ (poll.line 0).state = .active ∧ (fault.line 0).state = .fault ∧
      ((cmdState p).line 0).config.mode ≠ .polled) := by
  refine ⟨⟨?_, ?_⟩, by decide +kernel⟩ <;> constructor <;> decide +kernel

end Sys2Proof.Tests
end

section
/-! PROOFS. The outputs of the line ports: what DE and FLT say of the line states, and the line states
that power-on and the warm restart leave. -/

namespace Sys2Proof.Machine

/-! ## DE -/

theorem State.de_direct_iff {s : State} {k : Line} (hr : s.rstnLow = false)
    (hm : (s.line k).config.mode = .direct) :
    s.de k = true ↔ (s.line k).state = .active := by
  simp [State.de, hr, hm]

theorem State.de_polled_iff {s : State} {k : Line} (hr : s.rstnLow = false)
    (hm : (s.line k).config.mode = .polled) :
    s.de k = true ↔ (s.line k).state = .active ∧ (s.line k).tp ≠ none := by
  simp [State.de, hr, hm, Option.isSome_iff_ne_none]

theorem State.de_of_not_active {s : State} {k : Line} (h : (s.line k).state ≠ .active) :
    s.de k = false := by
  simp [State.de, h]

/-! ## FLT -/

theorem mem_allLines (k : Line) : k ∈ allLines := by
  revert k; decide

theorem State.fltLow_iff (s : State) :
    s.fltLow = true ↔ s.rstnLow = false ∧ ∃ k, (s.line k).state = .fault := by
  simp [State.fltLow, mem_allLines]

theorem State.fltLow_eq_false {s : State} (h : ∀ k, (s.line k).state ≠ .fault) :
    s.fltLow = false :=
  Bool.eq_false_iff.mpr fun hf =>
    have ⟨_, k, hk⟩ := s.fltLow_iff.mp hf
    h k hk

/-! ## Line states at power-on -/

theorem State.line_powerOn (p : Straps) (k : Line) :
    (State.powerOn p).line k =
      if k = p.mgmtLine then { LineRec.powerOn true with reservation := some 0 }
      else LineRec.powerOn false := by
  by_cases h : k = p.mgmtLine
  · subst h
    simp [State.line, State.powerOn, Vector.get_eq_getElem]
  · have hv : p.mgmtLine.val ≠ k.val := fun e => h (Fin.ext e).symm
    simp [State.line, State.powerOn, Vector.get_eq_getElem, Vector.getElem_set_ne _ _ hv, h]

theorem State.line_powerOn_state_ne_fault (p : Straps) (k : Line) :
    ((State.powerOn p).line k).state ≠ .fault := by
  rw [State.line_powerOn]
  split <;> simp [LineRec.powerOn]

/-! ## Line states after a warm restart -/

theorem LineRec.restarted_state (l : LineRec) :
    l.restarted.state = if l.config.mode = .off then l.state else .active := by
  unfold LineRec.restarted
  dsimp only
  split <;> rfl

@[simp] theorem line_clearForRestart (s : State) (k : Line) :
    (clearForRestart s).line k = (s.line k).restarted := by
  simp [clearForRestart, State.line, Vector.get_eq_getElem]

theorem Steady.line_state {s t : State} (h : Steady s t) (k : Line) :
    (t.line k).state = (s.line k).state :=
  congrArg PortView.state (h.port k)

theorem noteEvent_line_state (q : NoticeKind) (l : Option Line) (v : Option Addr) (s : State) (k : Line) :
    ((noteEvent q l v s).line k).state = (s.line k).state :=
  (noteEvent_steady q l v s).line_state k

theorem requestIfUp_steady (s : State) (k : Line) : Steady s (requestIfUp s k) := by
  unfold requestIfUp
  split
  · exact Steady.refl s
  · exact requestReservation_steady k s

/-- The reservations requested and RESTARTED raised leave every line state as the clearing made it (R176). -/
theorem warmRestart_line_state (s : State) (k : Line) :
    ((warmRestart s).line k).state =
      if (s.line k).config.mode = .off then (s.line k).state else .active := by
  have requests := (Steady.foldl _ requestIfUp_steady allLines (clearForRestart s)).line_state k
  calc ((warmRestart s).line k).state
      = ((allLines.foldl requestIfUp (clearForRestart s)).line k).state :=
        noteEvent_line_state _ _ _ _ k
    _ = (s.line k).restarted.state := by rw [requests, line_clearForRestart]
    _ = _ := LineRec.restarted_state _

/-- With OFF lines exactly the lines in mode OFF (R19), a warm restart makes every other line ACTIVE. -/
theorem warmRestart_line_state_of_offLinesEmpty {s : State} (h : OffLinesEmpty s) (k : Line) :
    ((warmRestart s).line k).state = if (s.line k).state = .off then .off else .active := by
  obtain ⟨off_iff, -⟩ := h k
  rw [warmRestart_line_state]
  by_cases hoff : (s.line k).state = .off
  · rw [if_pos (off_iff.mpr hoff), if_pos hoff, hoff]
  · rw [if_neg (mt off_iff.mp hoff), if_neg hoff]

/-! ## The statement -/

/-- Settles O20: DE and FLT by their definitions read off the line states, FLT's release by the line
states that power-on and the warm restart leave. -/
theorem outputsFollowLineStates : Obligations.OutputsFollowLineStates := by
  refine ⟨fun s k hr hm => State.de_direct_iff hr hm, fun s k hr hm => State.de_polled_iff hr hm,
    ?silent, State.fltLow_iff, ?powerOn, ?restart⟩
  case silent =>
    rintro s k (hoff | hfault)
    · exact State.de_of_not_active (by simp [hoff])
    · exact State.de_of_not_active (by simp [hfault])
  case powerOn =>
    exact fun p => State.fltLow_eq_false (State.line_powerOn_state_ne_fault p)
  case restart =>
    intro s h
    refine ⟨State.fltLow_eq_false fun k => ?_, fun k hfault => ?_⟩
    · rw [warmRestart_line_state_of_offLinesEmpty h]
      split <;> simp
    · rw [warmRestart_line_state_of_offLinesEmpty h]
      simp [hfault]

end Sys2Proof.Machine
end

section
/-! PROOFS. The books of the slot pool: the invariant that the holder counts, the free list and the places
of references meet while an event is in progress, and what the updates of the state do to it. -/

namespace Sys2Proof.Machine

/-! ## References counted -/

theorem State.count_refs (s : State) (i : SlotIx) :
    s.refs.count i = (allLines.map fun k => (s.line k).refs.count i).sum + s.agent.queue.count i +
      s.agent.current.toList.count i + s.notice.building.toList.count i := by
  simp [State.refs, List.count_flatMap, Function.comp_def, add_assoc]

theorem sum_allLines (a : Line → Nat) : (allLines.map a).sum = ∑ k, a k := by
  simp [allLines, Fin.sum_univ_eight, add_assoc]

/-- An update of one line changes the count of references by what that line holds. -/
theorem State.count_refs_modLine (s : State) (k : Line) (f : LineRec → LineRec) (i : SlotIx) :
    (s.modLine k f).refs.count i + (s.line k).refs.count i =
      s.refs.count i + (f (s.line k)).refs.count i := by
  have others : ∑ j ∈ Finset.univ.erase k, ((s.modLine k f).line j).refs.count i =
      ∑ j ∈ Finset.univ.erase k, (s.line j).refs.count i :=
    Finset.sum_congr rfl fun j hj => by rw [State.line_modLine_ne s j k f (Finset.ne_of_mem_erase hj)]
  simp only [State.count_refs, sum_allLines, State.modLine_agent, State.modLine_notice]
  rw [← Finset.add_sum_erase _ _ (Finset.mem_univ k), ← Finset.add_sum_erase _ _ (Finset.mem_univ k),
    others, State.line_modLine_same]
  omega

/-! ## Members of sets of lines -/

theorem LineSet.has_single (k j : Line) : LineSet.has (LineSet.single k) j = decide (j = k) := by
  revert k j; decide

theorem LineSet.has_insert (x : LineSet) (k j : Line) :
    LineSet.has (LineSet.insert x k) j = (LineSet.has x j || decide (j = k)) := by
  rw [← LineSet.has_single]
  simp [LineSet.has, LineSet.insert]

theorem LineSet.has_erase (x : LineSet) (k j : Line) :
    LineSet.has (LineSet.erase x k) j = (LineSet.has x j && !decide (j = k)) := by
  rw [← LineSet.has_single]
  simp [LineSet.has, LineSet.erase]

/-! ## The invariant within an event -/

/-- What an event in progress has begun on a line and not yet ended. -/
structure Ongoing where
  /-- the line whose reservation is passing to the decision of its frame, with what the line still holds as
  its reservation (R28, R59) -/
  intake : Option (Line × Option SlotIx) := none
  /-- the line whose transmit position has been emptied by a completion that has still to dispose of the await
  record (R84) -/
  completing : Option Line := none

/-- Line `k` keeps its places apart (`PlacesExclusive`), so far as the event `o` in progress leaves it to. While
a RESTART is pending, a line whose mode is OFF holds nothing: the warm restart leaves such lines alone (R176).
`a` is the agent's state and `w` whether the line waits for a reservation. -/
structure LineInOrder (o : Ongoing) (k : Line) (a : AgentState) (w : Bool) (l : LineRec) : Prop where
  waiting : w = true → l.reservation = none
  intake : ∀ r, o.intake = some (k, r) →
    w = false ∧ l.reservation = r ∧ (a = .restartPending → l.config.mode ≠ .off)
  off : a = .restartPending → l.config.mode = .off → l.state = .off ∧ l.refs = [] ∧ w = false
  first : ∀ i, l.tp = some (.normal i) → l.await = .empty
  again : ∀ i, l.tp = some (.resend i) → l.await = .resending i ∨ l.await = .empty
  resending : o.completing ≠ some k → ∀ i, l.await = .resending i → l.tp = some (.resend i)

/-- Line `k` would be in order with the record `l` in state `s`. -/
abbrev State.InOrder (s : State) (o : Ongoing) (k : Line) (l : LineRec) : Prop :=
  LineInOrder o k s.agent.state (LineSet.has s.pool.waiters k) l

/-- The books of the pool within an event: holder counts and free list stand as `ReferencesCounted` has them,
the references `held` counted in that the event has in hand and in no place, and every place is kept apart. -/
structure Books (o : Ongoing) (held : List SlotIx) (s : State) : Prop where
  counted : ∀ i, (s.slot i).holders = s.refs.count i + held.count i
  free : ∀ i, s.pool.free.count i = if (s.slot i).holders = 0 then 1 else 0
  idle : s.agent.state = .idle → s.agent.current = none
  building : s.notice.building = none
  lines : ∀ k, s.InOrder o k (s.line k)

/-- The books between events: nothing is in hand. -/
abbrev Orderly (s : State) : Prop := Books {} [] s

theorem OffLinesEmpty.bare {s : State} (off : OffLinesEmpty s) {k : Line}
    (hm : (s.line k).config.mode = .off) : (s.line k).state = .off ∧ (s.line k).refs = [] ∧
      LineSet.has s.pool.waiters k = false := by
  obtain ⟨mode_iff, empty⟩ := off k
  obtain ⟨⟨-, -, -, -, -, -, hres, htp, hnormal, hurgent, hawait, -⟩, hwaits⟩ := empty (mode_iff.mp hm)
  exact ⟨mode_iff.mp hm, by simp [LineRec.refs, hres, htp, hnormal, hurgent, hawait, Await.slot?], hwaits⟩

theorem orderly_of_invariants {s : State} (counted : ReferencesCounted s) (apart : PlacesExclusive s)
    (off : OffLinesEmpty s) (notices : NoticesConsistent s) : Orderly s := by
  obtain ⟨counted, free⟩ := counted
  obtain ⟨waiting, idle, first, again, resending⟩ := apart
  exact ⟨by simpa using counted, free, idle, notices.1, fun k => ⟨waiting k, nofun, fun _ => off.bare,
    first k, again k, fun _ => resending k⟩⟩

theorem Books.referencesCounted {s : State} (h : Orderly s) : ReferencesCounted s :=
  ⟨by simpa using h.counted, h.free⟩

theorem Books.placesExclusive {s : State} (h : Orderly s) : PlacesExclusive s :=
  ⟨fun k => (h.lines k).waiting, h.idle, fun k => (h.lines k).first, fun k => (h.lines k).again,
    fun k => (h.lines k).resending nofun⟩

/-! ## A line that stays in order -/

section Line

variable {o : Ongoing} {k : Line} {a : AgentState} {w : Bool} {l l' : LineRec}

/-- An ACTIVE or FAULT line is not one that a warm restart leaves alone. -/
theorem LineInOrder.mode_ne_off (h : LineInOrder o k a w l) (hs : l.state ≠ .off) :
    a = .restartPending → l.config.mode ≠ .off :=
  fun ha hm => hs (h.off ha hm).1

theorem LineInOrder.mode_ne_off_of_refs (h : LineInOrder o k a w l) (hr : l.refs ≠ []) :
    a = .restartPending → l.config.mode ≠ .off :=
  fun ha hm => hr (h.off ha hm).2.1

/-- A line with a reservation does not wait for one. -/
theorem LineInOrder.not_waiting (h : LineInOrder o k a w l) (hr : l.reservation ≠ none) : w = false :=
  Bool.eq_false_iff.mpr fun hw => hr (h.waiting hw)

/-- A line stays in order when it waits no longer, or a RESTART is no longer pending. -/
theorem LineInOrder.mono {a' : AgentState} {w' : Bool} (h : LineInOrder o k a w l) (hw : w' = true → w = true)
    (ha : a' = .restartPending → a = .restartPending) : LineInOrder o k a' w' l := by
  have idle : w = false → w' = false := fun e => Bool.eq_false_iff.mpr fun e' => by simp [hw e'] at e
  exact { h with
    waiting := fun e => h.waiting (hw e)
    intake := fun r e => by
      obtain ⟨hwaits, hres, up⟩ := h.intake r e
      exact ⟨idle hwaits, hres, up ∘ ha⟩
    off := fun pending hm => by
      obtain ⟨hoff, hnone, hwaits⟩ := h.off (ha pending) hm
      exact ⟨hoff, hnone, idle hwaits⟩ }

/-- A line that changes in nothing its order speaks of but its queues. -/
theorem LineInOrder.congr (h : LineInOrder o k a w l) (hmode : l'.config.mode = l.config.mode)
    (hstate : l'.state = l.state) (hres : l'.reservation = l.reservation) (htp : l'.tp = l.tp)
    (hawait : l'.await = l.await) (hrefs : l.state = .off → l.refs = [] → l'.refs = []) :
    LineInOrder o k a w l' where
  waiting := by rw [hres]; exact h.waiting
  intake := by rw [hres, hmode]; exact h.intake
  off ha hm := by
    obtain ⟨hoff, hnone, hw⟩ := h.off ha (hmode ▸ hm)
    exact ⟨hstate.trans hoff, hrefs hoff hnone, hw⟩
  first := by rw [htp, hawait]; exact h.first
  again := by rw [htp, hawait]; exact h.again
  resending := by rw [htp, hawait]; exact h.resending

end Line

/-- The part of a line that the books of the pool speak of. -/
structure LineHolding where
  mode : Mode
  state : LineState
  reservation : Option SlotIx
  normalQ : List SlotIx
  urgentQ : List SlotIx
  tp : Option TxItem
  await : Await

/-- What a line holds. -/
def LineRec.holding (l : LineRec) : LineHolding :=
  { mode := l.config.mode, state := l.state, reservation := l.reservation, normalQ := l.normalQ
    urgentQ := l.urgentQ, tp := l.tp, await := l.await }

theorem LineRec.refs_of_holding {l l' : LineRec} (e : l'.holding = l.holding) : l'.refs = l.refs := by
  simp only [LineRec.holding, LineHolding.mk.injEq] at e
  obtain ⟨-, -, hres, hnormal, hurgent, htp, hawait⟩ := e
  simp only [LineRec.refs, hres, hnormal, hurgent, htp, hawait]

theorem LineInOrder.of_holding {o : Ongoing} {k : Line} {a : AgentState} {w : Bool} {l l' : LineRec}
    (h : LineInOrder o k a w l) (e : l'.holding = l.holding) : LineInOrder o k a w l' := by
  have hrefs := LineRec.refs_of_holding e
  simp only [LineRec.holding, LineHolding.mk.injEq] at e
  obtain ⟨hmode, hstate, hres, -, -, htp, hawait⟩ := e
  exact h.congr hmode hstate hres htp hawait fun _ hnone => hrefs.trans hnone

/-- The part of the state that the books of the pool speak of. -/
structure Ledger where
  lines : Vector LineRec 8
  holders : SlotIx → Nat
  free : List SlotIx
  waiters : LineSet
  queue : List SlotIx
  current : Option SlotIx
  agent : AgentState
  building : Option SlotIx

/-- The ledger of a state. -/
def State.ledger (s : State) : Ledger :=
  { lines := s.lines, holders := fun i => (s.slot i).holders, free := s.pool.free
    waiters := s.pool.waiters, queue := s.agent.queue, current := s.agent.current
    agent := s.agent.state, building := s.notice.building }

/-! ## The books after an update -/

section Updates

variable {o o' : Ongoing} {held held' : List SlotIx} {s t : State}

/-- Updates of anything but the ledger leave the books alone. -/
theorem Books.of_ledger (h : Books o held s) (e : t.ledger = s.ledger) : Books o held t := by
  simp only [State.ledger, Ledger.mk.injEq] at e
  obtain ⟨lines, holders, free, waiters, queue, current, state, building⟩ := e
  have hline : ∀ k, t.line k = s.line k := fun k => by simp only [State.line, lines]
  have hrefs : t.refs = s.refs := by simp only [State.refs, hline, queue, current, building]
  have hholders : ∀ i, (t.slot i).holders = (s.slot i).holders := congrFun holders
  exact ⟨fun i => by rw [hholders, hrefs]; exact h.counted i,
    fun i => by rw [free, hholders]; exact h.free i, by rw [state, current]; exact h.idle,
    building.trans h.building, fun k => by rw [State.InOrder, hline, state, waiters]; exact h.lines k⟩

/-- Only how often each slot is in hand matters. -/
theorem Books.recount (h : Books o held s) (e : ∀ i, held'.count i = held.count i) : Books o held' s :=
  { h with counted := fun i => by rw [e]; exact h.counted i }

theorem Books.perm (h : Books o held s) (e : held'.Perm held) : Books o held' s :=
  h.recount fun i => e.count_eq i

/-- What the event has begun may be seen otherwise when every line is in order with that. -/
theorem Books.reread (h : Books o held s)
    (hl : ∀ k, s.InOrder o k (s.line k) → s.InOrder o' k (s.line k)) : Books o' held s :=
  { h with lines := fun k => hl k (h.lines k) }

/-- An update of one line, which may take references in hand or put them into its places, and by which the event
may begin or end something on that line. -/
theorem Books.modLine_reread (h : Books o held s) {k : Line} {f : LineRec → LineRec}
    (count : ∀ i, (f (s.line k)).refs.count i + held'.count i = (s.line k).refs.count i + held.count i)
    (line : s.InOrder o k (s.line k) → s.InOrder o' k (f (s.line k)))
    (others : ∀ j, j ≠ k → s.InOrder o j (s.line j) → s.InOrder o' j (s.line j)) :
    Books o' held' (s.modLine k f) where
  counted i := by
    have hs := h.counted i
    have hr := s.count_refs_modLine k f i
    have hc := count i
    rw [State.modLine_slot]
    omega
  free := h.free
  idle := h.idle
  building := h.building
  lines j := by
    by_cases hj : j = k
    · subst hj; rw [State.line_modLine_same]; exact line (h.lines j)
    · rw [State.line_modLine_ne s j k f hj]; exact others j hj (h.lines j)

/-- An update of one line, which may take references in hand or put them into its places. -/
theorem Books.modLine (h : Books o held s) {k : Line} {f : LineRec → LineRec}
    (count : ∀ i, (f (s.line k)).refs.count i + held'.count i = (s.line k).refs.count i + held.count i)
    (line : s.InOrder o k (s.line k) → s.InOrder o k (f (s.line k))) : Books o held' (s.modLine k f) :=
  h.modLine_reread count line fun _ _ => id

/-- An update of a line that leaves what it holds alone. -/
theorem Books.modLine_keeps (h : Books o held s) {k : Line} {f : LineRec → LineRec}
    (e : (f (s.line k)).holding = (s.line k).holding) : Books o held (s.modLine k f) :=
  h.modLine (fun i => by rw [LineRec.refs_of_holding e]) (·.of_holding e)

/-- An update of a line's mode or state that leaves its places alone. -/
theorem Books.modLine_status (h : Books o held s) {k : Line} {f : LineRec → LineRec}
    (up : s.agent.state = .restartPending → (f (s.line k)).config.mode ≠ .off)
    (e : { (f (s.line k)).holding with mode := (s.line k).config.mode, state := (s.line k).state } =
      (s.line k).holding) : Books o held (s.modLine k f) := by
  simp only [LineRec.holding, LineHolding.mk.injEq] at e
  obtain ⟨-, -, hres, hnormal, hurgent, htp, hawait⟩ := e
  refine h.modLine (fun i => by simp only [LineRec.refs, hres, hnormal, hurgent, htp, hawait]) fun line => ?_
  exact {
    waiting := by rw [hres]; exact line.waiting
    intake := fun r hr => by
      obtain ⟨hw, hr, -⟩ := line.intake r hr
      exact ⟨hw, hres.trans hr, up⟩
    off := fun ha hm => absurd hm (up ha)
    first := by rw [htp, hawait]; exact line.first
    again := by rw [htp, hawait]; exact line.again
    resending := by rw [htp, hawait]; exact line.resending }

/-- An update of slots that keeps their holder counts. -/
theorem Books.modSlot (h : Books o held s) {i : SlotIx} {f : Slot → Slot}
    (e : ∀ x, (f x).holders = x.holders) : Books o held (s.modSlot i f) := by
  have holders : (fun m => ((s.modSlot i f).slot m).holders) = fun m => (s.slot m).holders :=
    funext fun m => by rw [State.slot_modSlot]; split; exacts [e _, rfl]
  exact h.of_ledger (by simp [State.ledger, holders])

@[simp] theorem holders_modFrame (s : State) (i m : SlotIx) (f : Frame → Frame) :
    ((s.modFrame i f).slot m).holders = (s.slot m).holders := by
  unfold State.modFrame
  rw [State.slot_modSlot]
  split <;> rfl

theorem Books.modFrame (h : Books o held s) {i : SlotIx} {f : Frame → Frame} :
    Books o held (s.modFrame i f) :=
  h.of_ledger (by simp [State.ledger])

/-- A slot that is in use gains a reference, which is in hand. -/
theorem Books.addRef (h : Books o held s) {i : SlotIx} (used : (s.slot i).holders ≠ 0) :
    Books o (i :: held) (s.modSlot i fun x => { x with holders := x.holders + 1 }) where
  counted m := by
    have hm := h.counted m
    rw [State.slot_modSlot, show (s.modSlot i _).refs = s.refs from rfl, List.count_cons]
    split
    · next e => subst e; simp; omega
    · next e => simp [Ne.symm e, hm]
  free m := by
    have hm := h.free m
    rw [State.modSlot_pool, hm]
    obtain rfl | e := eq_or_ne m i
    · simp [used]
    · rw [State.slot_modSlot_ne s i m _ e]
  idle := h.idle
  building := h.building
  lines := h.lines

/-- A pool update that keeps the free list and lets no line wait that did not. -/
theorem Books.modPool (h : Books o held s) {f : Pool → Pool}
    (free : (f s.pool).free = s.pool.free)
    (waiters : ∀ k, LineSet.has (f s.pool).waiters k = true → LineSet.has s.pool.waiters k = true) :
    Books o held (s.modPool f) where
  counted := h.counted
  free i := by rw [State.modPool_pool, free]; exact h.free i
  idle := h.idle
  building := h.building
  lines k := (h.lines k).mono (waiters k) id

/-- An update of the agent, which may take references in hand or put them into its places. -/
theorem Books.modAgent (h : Books o held s) {f : Agent → Agent}
    (count : ∀ i, (f s.agent).queue.count i + (f s.agent).current.toList.count i + held'.count i =
      s.agent.queue.count i + s.agent.current.toList.count i + held.count i)
    (idle : (f s.agent).state = .idle → (f s.agent).current = none)
    (pending : (f s.agent).state = .restartPending → s.agent.state = .restartPending) :
    Books o held' (s.modAgent f) where
  counted i := by
    have hs := h.counted i
    have hc := count i
    rw [State.count_refs] at hs ⊢
    simp only [State.modAgent_slot, State.modAgent_line, State.modAgent_agent,
      State.modAgent_notice] at hs ⊢
    omega
  free := h.free
  idle := idle
  building := h.building
  lines k := (h.lines k).mono id pending

/-! ## Slots handed out and released -/

/-- A reference in hand is dropped; a slot that loses its last one is free (R41, R42). -/
theorem Books.dropRef {i : SlotIx} (h : Books o (i :: held) s) : Books o held (dropRef i s) := by
  have hi := h.counted i
  simp only [List.count_cons_self] at hi
  have counted (m : SlotIx) : ((s.modSlot i fun x => { x with holders := x.holders - 1 }).slot m).holders =
      s.refs.count m + held.count m := by
    have hm := h.counted m
    rw [State.slot_modSlot]
    split
    · next e => subst e; simp; omega
    · next e => simpa [List.count_cons, Ne.symm e] using hm
  unfold Machine.dropRef
  dsimp only
  split
  · next last =>
    refine ⟨counted, fun m => ?_, h.idle, h.building, h.lines⟩
    have hm := h.free m
    rw [State.modPool_slot, State.modPool_pool]
    simp only [State.modSlot_pool, List.count_append, hm]
    obtain rfl | e := eq_or_ne m i
    · simp [last]
    · simp [State.slot_modSlot_ne s i m _ e, List.count_eq_zero, e]
  · next more =>
    refine ⟨counted, fun m => ?_, h.idle, h.building, h.lines⟩
    rw [State.modSlot_pool, h.free m]
    obtain rfl | e := eq_or_ne m i
    · rw [State.slot_modSlot_same, if_neg (by omega), if_neg (by dsimp only; omega)]
    · rw [State.slot_modSlot_ne s i m _ e]

theorem allocate_line {a : Option Line} {i : SlotIx} (e : allocate a s = some (i, t)) (k : Line) :
    t.line k = s.line k := by
  unfold allocate at e; split at e <;> cases e; rfl

/-- The head of the free list is handed out with its one reference in hand (R43). -/
theorem Books.allocate {a : Option Line} {i : SlotIx} (h : Books o held s)
    (e : allocate a s = some (i, t)) : Books o (i :: held) t := by
  unfold Machine.allocate at e
  split at e
  · cases e
  · next rest hfree =>
    cases e
    have hi := h.free i
    rw [hfree, List.count_cons_self] at hi
    have unused : (s.slot i).holders = 0 := by
      by_contra used
      rw [if_neg used] at hi
      omega
    rw [if_pos unused] at hi
    refine ⟨fun m => ?_, fun m => ?_, h.idle, h.building, h.lines⟩
    · have hm := h.counted m
      rw [State.slot_modSlot, List.count_cons]
      change _ = s.refs.count m + _
      split
      · next e => subst e; simp; omega
      · next e => simpa [Ne.symm e] using hm
    · have hm := h.free m
      rw [hfree] at hm
      change rest.count m = _
      obtain rfl | e := eq_or_ne m i
      · simp; omega
      · rw [State.slot_modSlot_ne _ i m _ e]
        exact (List.count_cons_of_ne (Ne.symm e)).symm.trans hm

end Updates

end Sys2Proof.Machine
end

section
/-! PROOFS. The books of the slot pool through notices, counters, grants and the route unit's decisions: what
each operation does with the reference in hand. -/

namespace Sys2Proof.Machine

variable {o : Ongoing} {held : List SlotIx} {s t : State} {i : SlotIx} {j k : Line}

/-! ## Notices and counters -/

theorem Books.recordEvent (h : Books o held s) (q : NoticeKind) (l : Option Line) (v : Option Addr) :
    Books o held (recordEvent q l v s) := h.of_ledger rfl

theorem Books.countRelayInEmission (h : Books o held s) (c : RelayCounter) :
    Books o held (countRelayInEmission c s) := by
  have bumped : Books o held (s.bumpRelay c) := h.of_ledger rfl
  unfold Machine.countRelayInEmission
  dsimp only
  split
  · exact bumped.recordEvent ..
  · exact bumped

/-- A reference in hand that joins a queue of an ACTIVE line. -/
theorem Books.enqueue (h : Books o (i :: held) s) {f : LineRec → LineRec}
    (active : (s.line j).state = .active) (same : ∀ l, (f l).config = l.config ∧ (f l).state = l.state ∧
      (f l).reservation = l.reservation ∧ (f l).tp = l.tp ∧ (f l).await = l.await)
    (joins : ∀ l, (f l).refs.Perm (i :: l.refs)) : Books o held (s.modLine j f) := by
  obtain ⟨hconfig, hstate, hres, htp, hawait⟩ := same (s.line j)
  refine h.modLine (fun m => ?_)
    (·.congr (by rw [hconfig]) hstate hres htp hawait fun off => nomatch active.symm.trans off)
  simp only [(joins _).count_eq, List.count_cons]
  omega

theorem LineRec.refs_joinUrgent (l : LineRec) (i : SlotIx) :
    ({ l with urgentQ := l.urgentQ ++ [i] } : LineRec).refs.Perm (i :: l.refs) :=
  List.perm_iff_count.mpr fun m => by simp [LineRec.refs, List.count_cons]; omega

theorem LineRec.refs_joinNormal (l : LineRec) (i : SlotIx) :
    ({ l with normalQ := l.normalQ ++ [i] } : LineRec).refs.Perm (i :: l.refs) :=
  List.perm_iff_count.mpr fun m => by simp [LineRec.refs, List.count_cons]; omega

theorem Books.joinUrgent (h : Books o (i :: held) s) (active : (s.line j).state = .active) :
    Books o held (s.modLine j fun l => { l with urgentQ := l.urgentQ ++ [i] }) :=
  h.enqueue active (fun _ => ⟨rfl, rfl, rfl, rfl, rfl⟩) (·.refs_joinUrgent i)

theorem Books.joinNormal (h : Books o (i :: held) s) (active : (s.line j).state = .active) :
    Books o held (s.modLine j fun l => { l with normalQ := l.normalQ ++ [i] }) :=
  h.enqueue active (fun _ => ⟨rfl, rfl, rfl, rfl, rfl⟩) (·.refs_joinNormal i)

/-- An offer to an urgent queue takes the reference from the hand when it is admitted (R80). -/
theorem Books.offerUrgent (h : Books o (i :: held) s) :
    Books o (if (offerUrgent j i s).2 then held else i :: held) (offerUrgent j i s).1 := by
  unfold Machine.offerUrgent
  dsimp only
  split
  · next admitted => exact h.joinUrgent admitted.1
  · exact h

theorem Books.routeNotice (h : Books o (i :: held) s) : Books o held (routeNotice i s) := by
  unfold Machine.routeNotice
  split
  · next j d _ =>
    have offered := h.modFrame (i := i) (f := fun f => { f with dest := d }) |>.offerUrgent (j := j)
    dsimp only
    split
    · next ok => rwa [if_pos ok] at offered
    · next ok => rw [if_neg ok] at offered; exact offered.dropRef
  · exact (h.countRelayInEmission _).dropRef
  · exact (h.countRelayInEmission _).dropRef

/-- An emission leaves the building reference empty again and the NOTICE queued or its slot released (R47,
R168). -/
theorem Books.emitNotice (h : Books o held s) : Books o held (emitNotice s) := by
  unfold Machine.emitNotice
  split
  · exact h
  · next i t e =>
    have taken := h.allocate e
    dsimp only
    exact Books.of_ledger (Books.routeNotice (taken.of_ledger (by simp [State.ledger, taken.building]))) rfl

theorem Books.emissionTest (h : Books o held s) : Books o held (emissionTest s) := by
  unfold Machine.emissionTest
  split
  · split
    · exact h
    · split
      · exact h.of_ledger rfl
      · exact h.emitNotice
  · exact h.of_ledger rfl

theorem Books.noteEvent (h : Books o held s) {q : NoticeKind} {l : Option Line} {v : Option Addr} :
    Books o held (noteEvent q l v s) := (h.recordEvent q l v).emissionTest

theorem Books.countLine (h : Books o held s) {c : LineCounter} : Books o held (countLine k c s) := by
  have bumped : Books o held (s.bumpLine k c) := h.modLine_keeps rfl
  unfold Machine.countLine
  dsimp only
  split
  · exact bumped.noteEvent
  · exact bumped

theorem Books.countRelay (h : Books o held s) {c : RelayCounter} : Books o held (countRelay c s) := by
  have bumped : Books o held (s.bumpRelay c) := h.of_ledger rfl
  unfold Machine.countRelay
  dsimp only
  split
  · exact bumped.noteEvent
  · exact bumped

/-! ## Grants -/

/-- A line that holds no reservation is granted one (R45). -/
theorem Books.grantTo (h : Books o held s) (empty : (s.line k).reservation = none)
    (idle : ∀ r, o.intake ≠ some (k, r))
    (up : s.agent.state = .restartPending → (s.line k).config.mode ≠ .off) :
    Books o held (grantTo k s) := by
  unfold Machine.grantTo
  split
  · exact h
  · next i t e =>
    have taken := (h.allocate e).modPool
      (f := fun p => { p with waiters := LineSet.erase p.waiters k, lastGranted := k }) rfl
      fun j => by simp only [LineSet.has_erase, Bool.and_eq_true]; exact And.left
    refine taken.modLine (fun m => ?_) (fun line => ?_)
    · simp only [State.modPool_line, allocate_line e, LineRec.refs, empty, Option.toList,
        List.count_append, List.count_cons, List.count_nil]
      omega
    · simp only [State.InOrder, State.modPool_line, allocate_line e, State.modPool_agent, allocate_agent e,
        State.modPool_pool, LineSet.has_erase] at line ⊢
      exact { line with
        waiting := by simp
        intake := fun r e => absurd e (idle r)
        off := fun ha hm => absurd hm (up ha) }

theorem Pool.has_of_nextWaiter {p : Pool} (e : p.nextWaiter = some k) : LineSet.has p.waiters k = true :=
  List.find?_some e

theorem Books.grantOne (h : Books o held s) : Books o held (grantOne s) := by
  unfold Machine.grantOne
  split
  · split
    · next k e =>
      have waits := Pool.has_of_nextWaiter e
      have line := h.lines k
      refine h.grantTo (line.waiting waits) (fun r hr => ?_) (fun ha hm => ?_)
      · exact absurd waits (by simp [(line.intake r hr).1])
      · exact absurd waits (by simp [(line.off ha hm).2.2])
    · exact h
  · exact h

theorem Books.foldl {α : Type} {f : State → α → State}
    (step : ∀ s a, Books o held s → Books o held (f s a)) (as : List α) (h : Books o held s) :
    Books o held (as.foldl f s) := by
  induction as generalizing s with
  | nil => exact h
  | cons a as ih => exact ih (step s a h)

/-- A fold that uses up one reference in hand at each step. -/
theorem Books.foldl_uses {f : State → SlotIx → State}
    (step : ∀ s i held, Books o (i :: held) s → Books o held (f s i)) (is : List SlotIx)
    (h : Books o (is ++ held) s) : Books o held (is.foldl f s) := by
  induction is generalizing s with
  | nil => exact h
  | cons i is ih => exact ih (step s i _ h)

theorem Books.grantWaiters (h : Books o held s) : Books o held (grantWaiters s) :=
  h.foldl (fun _ _ h => h.grantOne) _

theorem Books.serveNotice (h : Books o held s) : Books o held (serveNotice s) := by
  unfold Machine.serveNotice
  split
  · exact h.emitNotice
  · exact h

theorem Books.poolService (h : Books o held s) : Books o held (poolService s) := h.serveNotice.grantWaiters

theorem Books.releaseRef (h : Books o (i :: held) s) : Books o held (releaseRef i s) := h.dropRef.poolService

/-- A line that holds no reservation asks for one (R45). -/
theorem Books.requestReservation (h : Books o held s) (empty : (s.line k).reservation = none)
    (idle : ∀ r, o.intake ≠ some (k, r))
    (up : s.agent.state = .restartPending → (s.line k).config.mode ≠ .off) :
    Books o held (requestReservation k s) := by
  unfold Machine.requestReservation
  split
  · exact h.grantTo empty idle up
  · refine ⟨h.counted, h.free, h.idle, h.building, fun j => ?_⟩
    have line := h.lines j
    simp only [State.InOrder, State.modPool_line, State.modPool_pool, State.modPool_agent,
      LineSet.has_insert]
    obtain rfl | ne := eq_or_ne j k
    · exact { line with
        waiting := fun _ => empty
        intake := fun r e => absurd e (idle r)
        off := fun ha hm => absurd hm (up ha) }
    · simpa [ne] using line

theorem Books.evaluatePool (h : Books o held s) : Books o held (evaluatePool s) := by
  have evaluated : Books o held (s.modPool fun p => { p with state := p.evaluated }) :=
    h.of_ledger rfl
  unfold Machine.evaluatePool
  dsimp only
  split
  · exact evaluated.noteEvent
  · exact evaluated

/-! ## Admission and RETURN frames -/

theorem LineRec.active_of_admits {l : LineRec} (h : l.admits = true) : l.state = .active := by
  unfold LineRec.admits at h
  simp only [Bool.and_eq_true, decide_eq_true_eq] at h
  exact h.1

/-- An offer to a normal queue takes the reference from the hand when it is admitted (R79). -/
theorem Books.admitNormal (h : Books o (i :: held) s) :
    Books o (if (admitNormal j i s).2 then held else i :: held) (admitNormal j i s).1 := by
  unfold Machine.admitNormal
  split
  · next admits => exact h.joinNormal (LineRec.active_of_admits admits)
  · exact h.countLine

theorem Books.makeReturn (h : Books o held s) {r : Reason} : Books o held (makeReturn r i s) :=
  h.modSlot fun _ => rfl

theorem Books.routeReturn (h : Books o (i :: held) s) : Books o held (routeReturn i s) := by
  unfold Machine.routeReturn
  split
  · next j d _ =>
    have offered := h.modFrame (i := i) (f := fun f => { f with dest := d }) |>.admitNormal (j := j)
    dsimp only
    split
    · next ok => rwa [if_pos ok] at offered
    · next ok => rw [if_neg ok] at offered; exact offered.dropRef
  · exact h.countRelay.dropRef
  · exact h.countRelay.noteEvent.dropRef

theorem Books.returnFrame (h : Books o (i :: held) s) {r : Reason} : Books o held (returnFrame r i s) :=
  h.makeReturn.routeReturn.poolService

/-! ## The decision for a received frame -/

theorem Books.holders_ne_zero (h : Books o (i :: held) s) : (s.slot i).holders ≠ 0 := by
  rw [h.counted i, List.count_cons_self]
  omega

/-- A copy that is admitted adds a reference of its own (R51). -/
theorem Books.offerCopy (h : Books o (i :: held) s) : Books o (i :: held) (offerCopy i s j) := by
  unfold Machine.offerCopy Machine.admitNormal
  dsimp only
  split
  · next admits =>
    have copied := h.addRef h.holders_ne_zero
    exact copied.joinNormal (j := j) (LineRec.active_of_admits admits)
  · exact h.countLine

theorem Books.broadcast (h : Books o (i :: held) s) : Books o held (broadcast k i s) := by
  unfold Machine.broadcast
  dsimp only
  split
  · exact h.countRelay.releaseRef
  · exact (h.modFrame.foldl (fun _ _ h => h.offerCopy) _).releaseRef

theorem Books.acceptCommand (h : Books o (i :: held) s) : Books o held (acceptCommand k i s) := by
  unfold Machine.acceptCommand
  split
  · exact h.countRelay.releaseRef
  · split
    · exact h.modAgent (fun m => by simp [List.count_cons]; omega) h.idle id
    · exact h.countRelay.releaseRef

theorem Books.routeReceived (h : Books o (i :: held) s) : Books o held (routeReceived k i s).1 := by
  unfold Machine.routeReceived
  split
  · exact h.acceptCommand
  · exact h.broadcast
  · next j d _ =>
    have offered := h.modFrame (i := i) (f := fun f => { f with dest := d }) |>.admitNormal (j := j)
    dsimp only
    split
    · next ok => rwa [if_pos ok] at offered
    · next ok =>
      rw [if_neg ok] at offered
      dsimp only
      exact offered.releaseRef
  · dsimp only
    split
    · exact h.countRelay.noteEvent.releaseRef
    · exact h.countRelay.releaseRef

/-! ## The receiving side of confirmed delivery -/

theorem Books.oweConf (h : Books o held s) {e : ConfEntry} : Books o held (oweConf k e s) := by
  unfold Machine.oweConf
  split
  · exact h.modLine_keeps rfl
  · exact h.countLine

theorem Books.acceptConfirmed (h : Books o held s) {f : Frame} : Books o held (acceptConfirmed k f s) :=
  Books.oweConf (h.modLine_keeps rfl)

end Sys2Proof.Machine
end

section
/-! PROOFS. The books of the slot pool through the line engine: the await record, presence, reply windows, the
flush, and what each transmission does when it begins and when it completes. -/

namespace Sys2Proof.Machine

variable {o : Ongoing} {held : List SlotIx} {s t : State} {i : SlotIx} {j k : Line}

/-! ## The await record -/

/-- An await record emptied has its reference in hand. -/
theorem Books.clearAwait (h : Books o held s) :
    Books o ((s.line k).await.slot?.toList ++ held) (clearAwait k s) := by
  refine h.modLine (fun m => ?_) (fun line => ?_)
  · simp [LineRec.refs, Await.slot?]; omega
  · exact { line with
      off := fun ha hm => by
        obtain ⟨hoff, hnone, hw⟩ := line.off ha hm
        simp only [LineRec.refs, List.append_eq_nil_iff] at hnone ⊢
        exact ⟨hoff, ⟨hnone.1, rfl⟩, hw⟩
      first := fun _ _ => rfl
      again := fun _ _ => .inr rfl
      resending := fun _ _ => nofun }

theorem Books.clearAwait_of (h : Books o held s) (e : (s.line k).await.slot? = some i) :
    Books o (i :: held) (Machine.clearAwait k s) := by simpa [e] using h.clearAwait (k := k)

/-- A WAITING record becomes DUE for the same slot (R97). -/
theorem Books.awaitDue (h : Books o held s) (e : (s.line k).await = .waiting i) :
    Books o held (s.modLine k fun l => { l with await := .due i, confirmTimer := none }) := by
  refine h.modLine (fun m => by simp [LineRec.refs, e, Await.slot?]) (fun line => ?_)
  exact { line with
    off := by simpa [LineRec.refs, e, Await.slot?] using line.off
    first := fun m ht => by simpa [e] using line.first m ht
    again := fun m ht => by simpa [e] using line.again m ht
    resending := fun _ _ => nofun }

theorem Books.offerConf (h : Books o held s) {c : Frame} : Books o held (offerConf k c s) := by
  unfold Machine.offerConf
  split
  · next i e =>
    split
    · exact (h.clearAwait_of e).releaseRef
    · exact h.countLine
  · exact h.countLine

theorem Books.awaitExpiry (h : Books o held s) : Books o held (awaitExpiry k s) := by
  unfold Machine.awaitExpiry
  split
  · next i e =>
    split
    · have retried : Books o held (s.modSlot i fun x => { x with retry := x.retry + 1 }) :=
        h.modSlot fun _ => rfl
      exact (retried.awaitDue e).countLine
    · exact (h.clearAwait_of (by rw [e]; rfl)).countLine.returnFrame
  · exact h
  · exact h
  · exact h

/-! ## Presence and reply windows -/

theorem Books.returnAbsentAwait (h : Books o held s) {node : Addr} :
    Books o held (returnAbsentAwait k node s) := by
  have returned (i : SlotIx) (e : (s.line k).await.slot? = some i) :
      Books o held (Machine.returnFrame .absent i (Machine.clearAwait k s)) := (h.clearAwait_of e).returnFrame
  unfold Machine.returnAbsentAwait
  split
  · next e => split; exacts [returned _ (by rw [e]; rfl), h]
  · next e => split; exacts [returned _ (by rw [e]; rfl), h]
  · exact h
  · exact h

theorem Books.presenceMiss (h : Books o held s) {node : Addr} : Books o held (presenceMiss k node s) := by
  unfold Machine.presenceMiss
  dsimp only
  split
  · exact h
  · split
    · exact Books.returnAbsentAwait (Books.noteEvent (h.modLine_keeps rfl))
    · exact h.modLine_keeps rfl

theorem Books.presenceGood (h : Books o held s) {node : Addr} : Books o held (presenceGood k node s) := by
  unfold Machine.presenceGood
  dsimp only
  split
  · exact h
  · split
    · exact Books.noteEvent (h.modLine_keeps rfl)
    · exact h.modLine_keeps rfl

theorem Books.closeWindow (h : Books o held s) : Books o held (closeWindow k s) := h.modLine_keeps rfl

theorem Books.openWindow (h : Books o held s) {w : Origin} {node : Addr} :
    Books o held (openWindow k w node s) := h.modLine_keeps rfl

theorem Books.damagedReply (h : Books o held s) : Books o held (damagedReply k s) := by
  unfold Machine.damagedReply
  split
  · exact h.closeWindow.awaitExpiry
  · exact h.closeWindow
  · exact h
  · exact h

/-! ## Flush -/

theorem Books.noteReplyGone (h : Books o held s) : Books o held (noteReplyGone i s) := by
  unfold Machine.noteReplyGone
  split
  · exact h.of_ledger rfl
  · exact h

theorem Books.flushDrop (h : Books o (i :: held) s) : Books o held (flushDrop s i) := h.noteReplyGone.dropRef

/-- A flushed reference is listed for a RETURN or dropped (R86). -/
theorem Books.flushRef {acc : State × List SlotIx} (h : Books o (i :: (acc.2 ++ held)) acc.1) :
    Books o ((flushRef acc i).2 ++ held) (flushRef acc i).1 := by
  unfold Machine.flushRef
  split
  · exact Books.perm h.makeReturn (by simp [List.perm_middle])
  · exact h.flushDrop

theorem Books.foldl_flushRef {acc : State × List SlotIx} (is : List SlotIx)
    (h : Books o (is ++ (acc.2 ++ held)) acc.1) :
    Books o ((is.foldl Machine.flushRef acc).2 ++ held) (is.foldl Machine.flushRef acc).1 := by
  induction is generalizing acc with
  | nil => exact h
  | cons i is ih =>
    refine ih (Books.perm (Books.flushRef (i := i) (held := is ++ held) ?_) ?_)
    · exact h.perm (List.Perm.cons i (by simpa using List.perm_append_comm_assoc acc.2 is held))
    · exact List.perm_append_comm_assoc is _ held

theorem Books.flushTp {tp : Option TxItem} (h : Books o ((tp.bind TxItem.slot?).toList ++ held) s) :
    Books o ((flushTp tp s).2 ++ held) (flushTp tp s).1 := by
  unfold Machine.flushTp
  split
  · exact h
  · exact h
  · exact h
  · exact h.flushDrop
  · exact Books.flushRef (acc := (s, [])) h
  · exact h.flushDrop

theorem Books.flushAwait {acc : State × List SlotIx} {a : Await}
    (h : Books o (a.slot?.toList ++ (acc.2 ++ held)) acc.1) :
    Books o ((flushAwait a acc).2 ++ held) (flushAwait a acc).1 := by
  unfold Machine.flushAwait
  split
  · next e => simpa [e] using h
  · next e => rw [e] at h; exact Books.perm h.makeReturn (by simp [List.perm_middle])

/-- What a flush takes out of a line: every reference but the reservation (R85, R86). -/
def LineRec.flushed (l : LineRec) : List SlotIx :=
  (l.tp.bind TxItem.slot?).toList ++ (l.await.slot?.toList ++ (l.normalQ ++ l.urgentQ))

theorem LineRec.count_refs_eq_flushed (l : LineRec) (m : SlotIx) :
    l.refs.count m = l.reservation.toList.count m + l.flushed.count m := by
  simp [LineRec.refs, LineRec.flushed]; omega

/-- Step 3 of a flush leaves in hand the RETURNs it has made (R86). -/
theorem Books.flushFrames {l : LineRec} (h : Books o (l.flushed ++ held) s) :
    Books o ((flushFrames l s).2 ++ held) (flushFrames l s).1 := by
  unfold Machine.flushFrames
  refine Books.foldl_uses (fun _ _ _ h => h.flushDrop) _
    (Books.perm ?normal (List.perm_append_comm_assoc _ _ _))
  refine Books.foldl_flushRef _ (Books.perm ?await (List.perm_append_comm_assoc _ _ _))
  refine Books.flushAwait (Books.perm ?tp (List.perm_append_comm_assoc _ _ _))
  exact Books.flushTp (by simpa [LineRec.flushed] using h)

theorem LineRec.emptied_fields (p : Bool) (l : LineRec) :
    (l.emptied p).config = l.config ∧ (l.emptied p).state = l.state ∧
      (l.emptied p).reservation = l.reservation ∧ (l.emptied p).normalQ = [] ∧
      (l.emptied p).urgentQ = [] ∧ (l.emptied p).tp = none ∧ (l.emptied p).await = .empty := by
  unfold LineRec.emptied LineRec.startTurnaround
  cases p <;> cases l.tp <;> simp <;> split <;> simp

theorem LineRec.refs_emptied (p : Bool) (l : LineRec) : (l.emptied p).refs = l.reservation.toList := by
  obtain ⟨-, -, hres, hnormal, hurgent, htp, hawait⟩ := l.emptied_fields p
  simp [LineRec.refs, hres, hnormal, hurgent, htp, hawait, Await.slot?]

theorem LineInOrder.emptied {a : AgentState} {w : Bool} {l : LineRec} (h : LineInOrder o k a w l) (p : Bool) :
    LineInOrder o k a w (l.emptied p) := by
  have hrefs := l.refs_emptied p
  obtain ⟨hconfig, hstate, hres, -, -, htp, hawait⟩ := l.emptied_fields p
  exact {
    waiting := by rw [hres]; exact h.waiting
    intake := by rw [hres, hconfig]; exact h.intake
    off := fun ha hm => by
      obtain ⟨hoff, hnone, hw⟩ := h.off ha (hconfig ▸ hm)
      have hr : l.reservation = none := by
        simpa [LineRec.refs] using (List.append_eq_nil_iff.mp (List.append_eq_nil_iff.mp
          (List.append_eq_nil_iff.mp (List.append_eq_nil_iff.mp hnone).1).1).1).1
      exact ⟨hstate.trans hoff, by rw [hrefs, hr]; rfl, hw⟩
    first := by simp [htp]
    again := by simp [htp]
    resending := by simp [hawait] }

theorem Books.flushLine (h : Books o held s) (p : Bool) : Books o held (flushLine k p s) := by
  have emptied : Books o ((s.line k).flushed ++ held) (s.modLine k (LineRec.emptied p)) := by
    refine h.modLine (fun m => ?_) (·.emptied p)
    rw [LineRec.refs_emptied, LineRec.count_refs_eq_flushed, List.count_append]
    omega
  unfold Machine.flushLine
  exact (Books.foldl_uses (fun _ _ _ h => h.routeReturn) _ emptied.flushFrames).poolService.evaluatePool

/-! ## Beginning a transmission -/

theorem State.modLine_modLine (s : State) (k : Line) (f g : LineRec → LineRec) :
    (s.modLine k f).modLine k g = s.modLine k fun l => g (f l) := by simp [State.modLine]

theorem beginTx_eq (k : Line) (x : TxItem) (s : State) : beginTx k x s = s.modLine k (·.sending x) := by
  unfold beginTx LineRec.sending
  congr 1
  funext l
  by_cases hm : l.config.mode = .polled <;> simp [hm]

/-- A record is RESENDING only while its retransmission is in the transmit position. -/
theorem LineInOrder.not_resending {a : AgentState} {w : Bool} {l : LineRec} (h : LineInOrder {} k a w l)
    (e : ∀ i, l.tp ≠ some (.resend i)) (i : SlotIx) : l.await ≠ .resending i :=
  fun hr => e i (h.resending nofun i hr)

/-- The empty transmit position of a line is filled, with a reference that `f` takes from the line's other
places or that is in hand. -/
theorem Books.send {f : LineRec → LineRec} {x : TxItem} {held' : List SlotIx} (h : Books {} held s)
    (keeps : ∀ l, (f l).config = l.config ∧ (f l).state = l.state ∧ (f l).reservation = l.reservation)
    (count : ∀ m, ((f (s.line k)).sending x).refs.count m + held'.count m =
      (s.line k).refs.count m + held.count m)
    (used : (s.line k).refs = [] → ((f (s.line k)).sending x).refs = [])
    (first : ∀ i, x = .normal i → (f (s.line k)).await = .empty)
    (retry : ∀ i, x = .resend i ↔ (f (s.line k)).await = .resending i) :
    Books {} held' (beginTx k x (s.modLine k f)) := by
  obtain ⟨hconfig, hstate, hres⟩ := keeps (s.line k)
  rw [beginTx_eq, State.modLine_modLine]
  refine h.modLine count fun line => ⟨?_, nofun, fun ha hm => ?_, ?_, ?_, ?_⟩
  · exact fun hw => hres.trans (line.waiting hw)
  · obtain ⟨hoff, hnone, hw⟩ := line.off ha ((congrArg LineConfig.mode hconfig).symm.trans hm)
    exact ⟨hstate.trans hoff, used hnone, hw⟩
  · exact fun i e => first i (Option.some.inj e)
  · exact fun i e => .inl ((retry i).mp (Option.some.inj e))
  · exact fun _ i e => congrArg some ((retry i).mpr e)

section Send

variable (h : Books {} held s) (empty : (s.line k).tp = none)
include h empty

/-- With the transmit position empty no record is RESENDING. -/
theorem Books.not_resending (i : SlotIx) : (s.line k).await ≠ .resending i :=
  (h.lines k).not_resending (by simp [empty]) i

theorem Books.sendConf {e : ConfEntry} : Books {} held (sendConf k e s) :=
  h.send (fun _ => ⟨rfl, rfl, rfl⟩)
    (fun m => by simp [LineRec.refs, LineRec.sending, empty, TxItem.slot?])
    (by simp [LineRec.refs, LineRec.sending, empty, TxItem.slot?]) nofun
    (fun i => by simpa using h.not_resending empty i)

theorem Books.sendPoll {n : Nat} : Books {} held (sendPoll k n s) :=
  h.send (fun _ => ⟨rfl, rfl, rfl⟩)
    (fun m => by simp [LineRec.refs, LineRec.sending, empty, TxItem.slot?])
    (by simp [LineRec.refs, LineRec.sending, empty, TxItem.slot?]) nofun
    (fun i => by simpa using h.not_resending empty i)

theorem Books.sendUrgent {is : List SlotIx} (e : (s.line k).urgentQ = i :: is) :
    Books {} held (sendUrgent k i s) :=
  h.send (fun _ => ⟨rfl, rfl, rfl⟩)
    (fun m => by simp [LineRec.refs, LineRec.sending, empty, e, TxItem.slot?, List.count_cons]; omega)
    (by simp [LineRec.refs, e]) nofun (fun i => by simpa using h.not_resending empty i)

theorem Books.sendNormal {is : List SlotIx} (e : (s.line k).normalQ = i :: is)
    (free : (s.line k).await = .empty) : Books {} held (sendNormal k i s) :=
  h.send (fun _ => ⟨rfl, rfl, rfl⟩)
    (fun m => by simp [LineRec.refs, LineRec.sending, empty, e, TxItem.slot?, List.count_cons]; omega)
    (by simp [LineRec.refs, e]) (fun _ _ => free) (fun i => by simpa using h.not_resending empty i)

/-- The slot of a retransmission is referred to twice (R98). -/
theorem Books.sendRetry (e : (s.line k).await = .due i) : Books {} held (sendRetry k i s) := by
  have used : (s.slot i).holders ≠ 0 :=
    (h.clearAwait_of (k := k) (i := i) (by rw [e]; rfl)).holders_ne_zero
  have second := h.addRef used
  refine second.send (k := k) (fun _ => ⟨rfl, rfl, rfl⟩) (fun m => ?_) ?_ nofun (fun m => ?_)
  · simp [LineRec.refs, LineRec.sending, empty, e, TxItem.slot?, Await.slot?, List.count_cons]; omega
  · simp [LineRec.refs, e, Await.slot?]
  · simp

theorem Books.firstSources (e : firstSources k s = some t) : Books {} held t := by
  unfold Machine.firstSources at e
  dsimp only at e
  split at e
  · cases e; exact h.sendConf empty
  · cases e; exact h.sendUrgent empty ‹_›
  · cases e; exact h.sendRetry empty ‹_›
  · cases e
  · cases e
  · cases e

theorem Books.selectDirect : Books {} held (selectDirect k s) := by
  unfold Machine.selectDirect
  split
  · next e => exact h.firstSources empty e
  · split
    · exact h.sendNormal empty ‹_› ‹_›
    · exact h

end Send

/-! ## Transmit completion -/

/-- The transmit position is emptied, its reference in hand, while the await record is not RESENDING (R84). -/
theorem Books.takeTx {x : TxItem} (h : Books {} held s) (e : (s.line k).tp = some x)
    (still : ∀ i, (s.line k).await ≠ .resending i) :
    Books {} (x.slot?.toList ++ held) (s.modLine k fun l => { l with tp := none }) := by
  refine h.modLine (fun m => by simp [LineRec.refs, e]; omega) fun line => ?_
  exact { line with
    off := fun ha hm => by
      obtain ⟨hoff, hnone, hw⟩ := line.off ha hm
      simp only [LineRec.refs, List.append_eq_nil_iff] at hnone ⊢
      exact ⟨hoff, ⟨⟨hnone.1.1, rfl⟩, hnone.2⟩, hw⟩
    first := nofun
    again := nofun
    resending := fun _ i hr => absurd hr (still i) }

/-- The transmit position is emptied of a retransmission whose record is RESENDING: the completion has still to
dispose of the record (R98). -/
theorem Books.takeResend (h : Books {} held s) (e : (s.line k).tp = some (.resend i)) :
    Books { completing := some k } (i :: held) (s.modLine k fun l => { l with tp := none }) := by
  refine h.modLine_reread (fun m => by simp [LineRec.refs, e, TxItem.slot?, List.count_cons]; omega)
    (fun line => ?_) (fun j _ line => { line with resending := fun _ => line.resending nofun })
  exact { line with
    intake := nofun
    off := fun ha hm => by
      obtain ⟨hoff, hnone, hw⟩ := line.off ha hm
      simp only [LineRec.refs, List.append_eq_nil_iff] at hnone ⊢
      exact ⟨hoff, ⟨⟨hnone.1.1, rfl⟩, hnone.2⟩, hw⟩
    first := nofun
    again := nofun
    resending := fun ne => absurd rfl ne }

theorem Books.startAwait (h : Books o held (s.modLine k fun l => { l with await := .waiting i })) :
    Books o held (startAwait k i s) := by
  unfold Machine.startAwait
  dsimp only
  split
  · exact h.openWindow
  · exact h.modLine_keeps rfl
  · exact h

/-- A confirmed frame sent for the first time moves from the transmit position to the await record (R93). -/
theorem Books.awaitSent (h : Books {} held s) (e : (s.line k).tp = some (.normal i)) :
    Books {} held ((s.modLine k fun l => { l with tp := none }).modLine k
      fun l => { l with await := .waiting i }) := by
  have free := (h.lines k).first i e
  rw [State.modLine_modLine]
  refine h.modLine (fun m => ?_) fun line => ?_
  · simp [LineRec.refs, e, free, TxItem.slot?, Await.slot?]
  · exact { line with
      off := by simpa [LineRec.refs, e, free, TxItem.slot?, Await.slot?] using line.off
      first := nofun
      again := nofun
      resending := fun _ => nofun }

/-- A record whose retransmission is done waits again (R98). -/
theorem Books.awaitAgain (h : Books { completing := some k } held s) (e : (s.line k).await = .resending i)
    (empty : (s.line k).tp = none) : Books {} held (s.modLine k fun l => { l with await := .waiting i }) := by
  refine h.modLine_reread (fun m => by simp [LineRec.refs, e, Await.slot?]) (fun line => ?_)
    (fun j ne line => { line with resending := fun _ => line.resending (by simpa using Ne.symm ne) })
  exact { line with
    intake := nofun
    off := by simpa [LineRec.refs, e, Await.slot?] using line.off
    first := by simp [empty]
    again := by simp [empty]
    resending := fun _ => nofun }

theorem engine_places {u : State} (e : u.engine k = s.engine k) :
    (u.line k).tp = (s.line k).tp ∧ (u.line k).await = (s.line k).await :=
  ⟨congrArg EngineView.tp e, congrArg EngineView.await e⟩

theorem Books.disposeTx {x : TxItem} (h : Books {} held s) (e : (s.line k).tp = some x) :
    Books {} held (disposeTx k x (s.modLine k fun l => { l with tp := none })) := by
  have order := h.lines k
  have still (hx : ∀ i, x ≠ .resend i) (i : SlotIx) : (s.line k).await ≠ .resending i :=
    order.not_resending (fun i => by simpa [e] using hx i) i
  cases x with
  | conf f => exact h.takeTx e (still nofun)
  | poll f => exact (h.takeTx e (still nofun)).openWindow
  | urgent i => exact (h.takeTx e (still nofun)).noteReplyGone.releaseRef
  | normal i =>
    unfold Machine.disposeTx
    dsimp only
    split
    · exact (h.awaitSent e).startAwait
    · exact (h.takeTx e (still nofun)).releaseRef
  | resend i =>
    have again := order.again i e
    unfold Machine.disposeTx
    simp only [State.line_modLine_same]
    split
    · next j hj =>
      obtain rfl : j = i := by simpa [hj] using again
      have released := (h.takeResend e).releaseRef
      obtain ⟨htp, hawait⟩ :=
        engine_places (releaseRef_engine k j (s.modLine k fun l => { l with tp := none }))
      simp only [State.line_modLine_same] at htp hawait
      exact (released.awaitAgain (hawait.trans hj) htp).startAwait
    all_goals
      next hj => exact (h.takeTx e (by simp [hj])).releaseRef

theorem Books.completeTx {x : TxItem} (h : Books {} held s) (e : (s.line k).tp = some x) :
    Books {} held (completeTx k x s) :=
  h.countLine.disposeTx ((engine_places (countLine_engine k k .txSent s)).1.trans e)

end Sys2Proof.Machine
end

section
/-! PROOFS. The books of the slot pool through the turns of POLLED lines, the agent's reply and next command,
the end of an event, and the warm restart. -/

namespace Sys2Proof.Machine

variable {o : Ongoing} {held : List SlotIx} {s t : State} {i : SlotIx} {j k : Line}

/-! ## Turns -/

/-- The head of a normal queue is taken in hand. -/
theorem Books.takeHead (h : Books o held s) {is : List SlotIx} (e : (s.line k).normalQ = i :: is) :
    Books o (i :: held) (s.modLine k fun l => { l with normalQ := l.normalQ.tail }) :=
  h.modLine (fun m => by simp [LineRec.refs, e, List.count_cons]; omega)
    (·.congr rfl rfl rfl rfl rfl (by simp [LineRec.refs, e]))

theorem Books.removeAbsentHead (h : Books o held s) {is : List SlotIx} (e : (s.line k).normalQ = i :: is) :
    Books o held (removeAbsentHead k i s) := by
  unfold Machine.removeAbsentHead
  dsimp only
  split
  · exact (h.takeHead e).returnFrame
  · exact (h.takeHead e).releaseRef.countLine

theorem removeAbsentHead_engine (k j : Line) (i : SlotIx) (s : State) :
    (removeAbsentHead k i s).engine j = s.engine j := by
  have dequeued := modLine_engine j s k (fun l => { l with normalQ := l.normalQ.tail }) rfl
  unfold removeAbsentHead
  dsimp only
  split
  · rw [returnFrame_engine, dequeued]
  · rw [countLine_engine, releaseRef_engine, dequeued]

/-- Step 4 of a turn keeps the books, and leaves the transmit position empty when it sends nothing (R113). -/
theorem Books.serveNormal (n : Nat) (h : Books {} held s) (empty : (s.line k).tp = none)
    (free : (s.line k).await = .empty) : Books {} held (serveNormal k n s).1 ∧
      ((serveNormal k n s).2 = false → ((serveNormal k n s).1.line k).tp = none) := by
  induction n generalizing s with
  | zero => exact ⟨h, fun _ => empty⟩
  | succ n ih =>
    unfold Machine.serveNormal
    split
    · exact ⟨h, fun _ => empty⟩
    · next i is e =>
      split
      · obtain ⟨htp, hawait⟩ := engine_places (removeAbsentHead_engine k k i s)
        exact ih (h.removeAbsentHead e) (htp.trans empty) (hawait.trans free)
      · have burst : Books {} held (s.modLine k fun l =>
            { l with burst := if l.pollList.isEmpty then l.burst else l.burst + 1 }) := h.modLine_keeps rfl
        exact ⟨burst.sendNormal (by simpa using empty) (by simpa using e) (by simpa using free), nofun⟩

theorem Books.pollSearch (n : Nat) (h : Books {} held s) (empty : (s.line k).tp = none) :
    Books {} held (pollSearch k n s) := by
  induction n generalizing s with
  | zero => exact h
  | succ n ih =>
    unfold Machine.pollSearch
    dsimp only
    split
    · exact h
    · split
      · exact h.sendPoll empty
      · exact ih (h.modLine_keeps rfl) (by simpa [LineRec.passEnded] using empty)

theorem Books.takeTurn (h : Books {} held s) (empty : (s.line k).tp = none) :
    Books {} held (takeTurn k s) := by
  unfold Machine.takeTurn
  split
  · next e => exact h.firstSources empty e
  · split
    · next free =>
      obtain ⟨served, unsent⟩ := h.serveNormal (serveFuel (s.line k)) empty free.1
      dsimp only
      split
      · exact served
      · next e => exact served.pollSearch _ (unsent (by simpa using e))
    · exact h.pollSearch _ empty

theorem LineRec.tp_of_selects {l : LineRec} (h : l.selects = true) : l.tp = none := by
  unfold LineRec.selects at h
  simp only [Bool.and_eq_true, Option.isNone_iff_eq_none] at h
  exact h.2

theorem LineRec.tp_of_takesTurn {l : LineRec} (h : l.takesTurn = true) : l.tp = none := by
  unfold LineRec.takesTurn at h
  simp only [Bool.and_eq_true, Option.isNone_iff_eq_none] at h
  exact h.1.2

theorem Books.attend (h : Books {} held s) : Books {} held (attend s k) := by
  unfold Machine.attend
  split
  · next selects => exact h.selectDirect (LineRec.tp_of_selects selects)
  · split
    · next turn => exact h.takeTurn (LineRec.tp_of_takesTurn turn)
    · exact h

theorem Books.attendRounds (n : Nat) (h : Books {} held s) : Books {} held (attendRounds n s) := by
  induction n generalizing s with
  | zero => exact h
  | succ n ih =>
    unfold Machine.attendRounds
    split
    · exact h
    · exact ih (h.foldl (fun _ _ h => h.attend) _)

/-! ## The agent's reply and next command -/

theorem AgentState.restartPending_of_afterReply (a : AgentState) :
    a.afterReply = .restartPending → a = .restartPending := by
  cases a <;> simp [AgentState.afterReply]

/-- The current command leaves the agent, its reference in hand (R136). -/
theorem Books.letGo (h : Books o held s) (e : s.agent.current = some i) :
    Books o (i :: held) (s.modAgent Agent.letGo) :=
  h.modAgent (fun m => by simp [Agent.letGo, e, List.count_cons]; omega) (fun _ => rfl)
    (AgentState.restartPending_of_afterReply _)

theorem Books.releaseReply (h : Books o held s) (e : s.agent.current = some i) :
    Books o held (releaseReply i s) := (h.letGo e).noteReplyGone.releaseRef

theorem Books.offerReply (h : Books o held s) : Books o held (offerReply s) := by
  unfold Machine.offerReply
  split
  · exact h
  · next i e =>
    split
    · exact h.releaseReply e
    · next j _ =>
      split
      · next active =>
        split
        · exact Books.joinUrgent (s := s.modAgent Agent.letGo) (h.letGo e) active
        · refine h.modAgent (fun m => rfl) (fun idle => ?_) (fun pending => ?_)
          · revert idle; simp only [AgentState.holding]; split <;> simp
          · revert pending; simp only [AgentState.holding]; split <;> simp [*]
      · exact h.releaseReply e

theorem Books.giveRoom (h : Books o held s) : Books o held (giveRoom s) := by
  unfold Machine.giveRoom
  split
  · exact h.offerReply
  · exact h

theorem Books.dropHeldReply (h : Books o held s) : Books o held (dropHeldReply k s) := by
  unfold Machine.dropHeldReply
  split
  · exact h
  · next e =>
    split
    · exact h.releaseReply e
    · exact h

/-- The head of the agent queue becomes the current command, which an IDLE agent does not have (R132). -/
theorem Books.takeCommand (h : Books o held s) : Books o held (takeCommand s) := by
  unfold Machine.takeCommand
  split
  · next idle =>
    split
    · exact h
    · next e =>
      exact h.modAgent (fun m => by simp [e, h.idle idle, List.count_cons]) nofun nofun
  · exact h

/-! ## The end of an event -/

theorem Books.settle (h : Books {} held s) : Books {} held (settle s) :=
  ((h.takeCommand.attendRounds _).evaluatePool).attendRounds _

theorem Books.event {p : Bool} {f : State → State} (h : Orderly s) (e : event s p f = .next t)
    (effect : p = true → Orderly (f s)) : Orderly t := by
  unfold Machine.event when at e
  cases e
  split
  · exact h
  · next possible =>
    simp only [Bool.or_eq_true, not_or, Bool.not_eq_true, Bool.not_eq_false'] at possible
    exact (effect possible.2).settle

/-! ## The warm restart -/

/-- A line that keeps its order is empty after the steps of a warm restart that clear it: the restart empties
every line whose mode is not OFF, and the others hold nothing (R176). -/
theorem LineInOrder.restarted {a : AgentState} {w : Bool} {l : LineRec} (h : LineInOrder o k a w l)
    (pending : a = .restartPending) :
    l.restarted.refs = [] ∧ l.restarted.reservation = none ∧
      (∀ i, l.restarted.tp ≠ some (.normal i)) ∧ (∀ i, l.restarted.tp ≠ some (.resend i)) ∧
      l.restarted.await = .empty := by
  unfold LineRec.restarted
  dsimp only
  split
  · next off =>
    obtain ⟨-, hnone, -⟩ := h.off pending off
    refine ⟨hnone, ?_⟩
    simp only [LineRec.refs, List.append_eq_nil_iff, Option.toList_eq_nil_iff] at hnone
    obtain ⟨⟨⟨⟨hres, -⟩, -⟩, htp⟩, hawait⟩ := hnone
    refine ⟨hres, fun i (e : l.tp = _) => ?_, fun i (e : l.tp = _) => ?_, ?_⟩
    · rw [e] at htp; cases htp
    · rw [e] at htp; cases htp
    · revert hawait
      cases l.await <;> simp [Await.slot?]
  · obtain ⟨-, -, -, hnormal, hurgent, htp, hawait⟩ :=
      LineRec.emptied_fields (decide (l.config.mode = .polled))
        { l with counters := Vector.replicate 16 0#16 }
    simp [LineRec.refs, hnormal, hurgent, htp, hawait, Await.slot?]

theorem count_allSlots (i : SlotIx) : allSlots.count i = 1 :=
  List.count_eq_one_of_mem (List.nodup_finRange 128) (List.mem_finRange i)

theorem Books.clearForRestart (h : Orderly s) (pending : s.agent.state = .restartPending) :
    Orderly (clearForRestart s) := by
  have cleared (k : Line) := (h.lines k).restarted pending
  have holders (i : SlotIx) : ((Machine.clearForRestart s).slot i).holders = 0 := by
    simp [Machine.clearForRestart, State.slot, Vector.get_eq_getElem, Slot.restarted]
  have refs (i : SlotIx) : (Machine.clearForRestart s).refs.count i = 0 := by
    simp only [State.count_refs, line_clearForRestart, cleared]
    simp [Machine.clearForRestart, Agent.restarted, Agent.powerOn, NoticeUnit.restarted, NoticeUnit.powerOn]
  refine ⟨fun i => by simp [holders, refs], fun i => by rw [holders]; exact count_allSlots i,
    fun _ => rfl, rfl, fun k => ?_⟩
  obtain ⟨-, hres, hnormal, hresend, hawait⟩ := cleared k
  rw [line_clearForRestart]
  exact ⟨fun _ => hres, nofun, nofun, fun i e => absurd e (hnormal i), fun i e => absurd e (hresend i),
    fun _ i e => by simp [hawait] at e⟩

theorem requestReservation_agent (k : Line) (s : State) : (requestReservation k s).agent = s.agent := by
  unfold requestReservation
  split
  · exact grantTo_agent k s
  · rfl

/-- A request changes no other line than its own. -/
theorem requestReservation_line_ne (ne : j ≠ k) : (requestReservation k s).line j = s.line j := by
  unfold requestReservation
  split
  · unfold grantTo
    split
    · rfl
    · next e => exact (State.line_modLine_ne _ j k _ ne).trans (allocate_line e j)
  · rfl

/-- The requests of a warm restart, each made by a line that holds no reservation (R55, R176). -/
theorem Books.foldl_requestIfUp {ks : List Line} (distinct : ks.Nodup) (h : Orderly s)
    (running : s.agent.state ≠ .restartPending) (empty : ∀ k ∈ ks, (s.line k).reservation = none) :
    Orderly (ks.foldl requestIfUp s) := by
  induction ks generalizing s with
  | nil => exact h
  | cons k ks ih =>
    obtain ⟨fresh, distinct⟩ := List.nodup_cons.mp distinct
    rw [List.foldl_cons]
    unfold requestIfUp
    split
    · exact ih distinct h running fun j hj => empty j (List.mem_cons_of_mem k hj)
    · refine ih distinct ?_ (by rwa [requestReservation_agent]) fun j hj => ?_
      · exact h.requestReservation (empty k List.mem_cons_self) nofun fun pending => absurd pending running
      · rw [requestReservation_line_ne (ne_of_mem_of_not_mem hj fresh)]
        exact empty j (List.mem_cons_of_mem k hj)

theorem Books.warmRestart (h : Orderly s) (pending : s.agent.state = .restartPending) :
    Orderly (warmRestart s) := by
  refine ((h.clearForRestart pending).foldl_requestIfUp (by decide) nofun fun k _ => ?_).noteEvent
  rw [line_clearForRestart]
  exact ((h.lines k).restarted pending).2.1

theorem Agent.state_of_restartDue {a : Agent} (h : a.restartDue = true) : a.state = .restartPending := by
  unfold Agent.restartDue at h
  simp only [Bool.and_eq_true, decide_eq_true_eq] at h
  exact h.1

theorem Books.restartIfDue (h : Orderly s) : Orderly (restartIfDue s) := by
  unfold Machine.restartIfDue
  split
  · next due => exact h.warmRestart (Agent.state_of_restartDue due)
  · exact h

end Sys2Proof.Machine
end

section
/-! PROOFS. The books of the slot pool through a reception: the reservation of a line passes to the decision of
its frame, and the line asks for a new one (R28, R45, R59). -/

namespace Sys2Proof.Machine

variable {o : Ongoing} {held : List SlotIx} {s t : State} {i : SlotIx} {j k : Line}

/-! ## The reservation passes to the decision -/

/-- The decision of the frame in line `k`'s reservation begins. -/
theorem Books.beginIntake (h : Books {} held s) (e : (s.line k).reservation = some i) :
    Books { intake := some (k, some i) } held s := by
  refine h.reread fun j line => { line with intake := fun r hr => ?_ }
  obtain ⟨rfl, rfl⟩ : k = j ∧ some i = r := by simpa using hr
  exact ⟨line.not_waiting (by simp [e]), e, line.mode_ne_off_of_refs (by simp [LineRec.refs, e])⟩

theorem Books.endIntake {x : Line × Option SlotIx} (h : Books { intake := some x } held s) :
    Books {} held s :=
  h.reread fun _ line => { line with intake := nofun }

/-- The reservation leaves the line for the route unit (R28). -/
theorem Books.takeReservation (h : Books { intake := some (k, some i) } held s) :
    Books { intake := some (k, none) } (i :: held) (s.modLine k fun l => { l with reservation := none }) := by
  obtain ⟨hw, hres, up⟩ := (h.lines k).intake _ rfl
  refine h.modLine_reread (fun m => by simp [LineRec.refs, hres, List.count_cons]; omega) (fun line => ?_)
    (fun j ne line => { line with intake := fun r e => by cases e; exact absurd rfl ne })
  exact { line with
    waiting := fun _ => rfl
    intake := fun r e => ⟨hw, by simpa using e, up⟩
    off := fun ha hm => absurd hm (up ha) }

theorem Books.passToRoute (h : Books { intake := some (k, some i) } held s) :
    Books {} held (passToRoute k i s) := by
  have routed := h.takeReservation.routeReceived (k := k)
  have ask {u : State} (h : Books { intake := some (k, none) } held u) :
      Books {} held (Machine.requestReservation k u) := by
    obtain ⟨-, hres, up⟩ := (h.lines k).intake none rfl
    exact h.endIntake.requestReservation hres nofun up
  unfold Machine.passToRoute
  dsimp only
  split
  · exact ask routed.acceptConfirmed
  · exact ask routed

/-! ## The decision at receive completion -/

theorem Books.firstLook (h : Books o held s) {inWindow : Bool} {f : Frame} :
    Books o held (firstLook k inWindow f s).1 := by
  unfold Machine.firstLook
  split
  · exact h.offerConf
  · exact h.countLine
  · dsimp only; split; exacts [h, h.countLine]
  · split; exacts [h.countLine.oweConf, h]
  all_goals exact h

theorem Books.lookAndRoute (h : Books { intake := some (k, some i) } held s) :
    Books {} held (lookAndRoute k i s) := by
  have looked := h.firstLook (k := k) (inWindow := false) (f := s.frame i)
  unfold Machine.lookAndRoute
  dsimp only
  split
  · exact looked.endIntake
  · exact looked.passToRoute

theorem Books.processReply (h : Books { intake := some (k, some i) } held s) {w : Origin} {node : Addr} :
    Books {} held (processReply k i w node s) := by
  have closed := h.closeWindow (k := k)
  unfold Machine.processReply
  cases w with
  | poll =>
    have present : Books { intake := some (k, some i) } held
        (if (s.frame i).src = node then Machine.presenceGood k node (Machine.closeWindow k s)
          else Machine.presenceMiss k node (Machine.closeWindow k s)) := by
      split
      exacts [closed.presenceGood, closed.presenceMiss]
    have looked := present.firstLook (k := k) (inWindow := true) (f := s.frame i)
    dsimp only
    split
    · exact looked.endIntake
    · exact looked.passToRoute
  | data =>
    have present : Books { intake := some (k, some i) } held
        (if (s.frame i).src = node then Machine.presenceGood k node (Machine.closeWindow k s)
          else Machine.closeWindow k s) := by
      split
      exacts [closed.presenceGood, closed]
    have looked := (present.firstLook (k := k) (inWindow := true) (f := s.frame i)).awaitExpiry (k := k)
    dsimp only
    split
    · exact looked.endIntake
    · exact looked.passToRoute

theorem Books.decideFrame (h : Books { intake := some (k, some i) } held s) :
    Books {} held (decideFrame k i s) := by
  unfold Machine.decideFrame
  split
  · exact h.countRelay.damagedReply.endIntake
  · split
    · split
      · exact h.processReply
      · exact h.countLine.endIntake
      · exact h.countLine.endIntake
    · exact h.lookAndRoute
    · exact h.lookAndRoute

/-! ## Characters -/

theorem Books.toHunt (h : Books o held s) : Books o held (toHunt k s) := h.modLine_keeps rfl

theorem Books.abandonFrame (h : Books o held s) {c : LineCounter} : Books o held (abandonFrame k c s) :=
  h.toHunt.countLine.damagedReply

theorem Books.receiveComplete (h : Books {} held s) (e : (s.line k).reservation = some i) {good : Bool} :
    Books {} held (receiveComplete k i good s) := by
  unfold Machine.receiveComplete
  split
  · exact (h.beginIntake e).toHunt.countLine.decideFrame
  · exact h.abandonFrame

theorem Books.breakCharacter (h : Books o held s) : Books o held (breakCharacter k s) := by
  have begun : Books o held (s.modLine k fun l =>
      { l with rx := { l.rx with brk := true }, faultTimer := some Config.faultMs }) := h.modLine_keeps rfl
  unfold Machine.breakCharacter
  dsimp only
  split
  · exact begun.abandonFrame
  · exact begun.countLine

theorem Books.takeLead (h : Books o held s) : Books o held (takeLead k s) := by
  refine h.modLine_keeps ?_
  unfold windowLead
  split <;> dsimp only <;> split <;> rfl

theorem Books.storeByte (h : Books {} held s) {b : Byte} : Books {} held (storeByte k b s) := by
  unfold Machine.storeByte
  split
  · exact h
  · next i e =>
    have stored {f : Frame} {rx : Receiver} : Books {} held ((s.modFrame i fun _ => f).modLine k
        fun l => { l with rx := { rx with gap := some l.config.gapLimit } }) :=
      Books.modLine_keeps h.modFrame rfl
    dsimp only
    split
    · exact stored
    · exact stored.abandonFrame
    · exact stored.receiveComplete (by simpa using e)

theorem Books.takeChar (h : Books {} held s) {c : RxChar} : Books {} held (takeChar k c s) := by
  have ended {x : Level} : Books {} held (s.setLine k ((s.line k).afterChar x)) :=
    h.modLine_keeps (f := (·.afterChar x)) rfl
  cases e : classify (s.line k).config.parity c with
  | brk => rw [takeChar_brk e]; exact ended.breakCharacter
  | framing => rw [takeChar_error (.inl e)]; split; exacts [ended.abandonFrame, ended]
  | parity => rw [takeChar_error (.inr e)]; split; exacts [ended.abandonFrame, ended]
  | good =>
    rw [takeChar_good e]
    split
    · exact ended.storeByte
    · split
      · exact ended.takeLead
      · exact ended

theorem Books.startChar (h : Books o held s) : Books o held (startChar k s) := h.modLine_keeps rfl

theorem Books.quietExpiry (h : Books o held s) : Books o held (quietExpiry k s) := by
  unfold Machine.quietExpiry
  split
  · exact h.modLine_keeps rfl
  · exact h.abandonFrame

end Sys2Proof.Machine
end

section
/-! PROOFS. The books of the slot pool through every command: the reset, the events of lines, timers, pool and
agent, and the management commands. -/

namespace Sys2Proof.Machine

variable {o : Ongoing} {held : List SlotIx} {s t : State} {i : SlotIx} {j k : Line}

/-! ## Reset -/

theorem line_heldInReset (p : Straps) (k : Line) :
    (State.heldInReset p).line k = LineRec.powerOn false := by
  simp [State.line, State.heldInReset, Vector.get_eq_getElem]

theorem refs_powerOn (mgmt : Bool) : (LineRec.powerOn mgmt).refs = [] := rfl

/-- A line at the release of RSTn holds nothing, so it is in order whatever waits. -/
theorem LineInOrder.powerOn (w mgmt : Bool) : LineInOrder {} k .idle w (LineRec.powerOn mgmt) :=
  ⟨fun _ => rfl, nofun, nofun, nofun, nofun, fun _ => nofun⟩

theorem orderly_heldInReset (p : Straps) : Orderly (State.heldInReset p) := by
  have holders (i : SlotIx) : ((State.heldInReset p).slot i).holders = 0 := by
    simp [State.heldInReset, State.slot, Vector.get_eq_getElem, Slot.powerOn]
  have refs (i : SlotIx) : (State.heldInReset p).refs.count i = 0 := by
    simp only [State.count_refs, line_heldInReset, refs_powerOn]
    simp [State.heldInReset, Agent.powerOn, NoticeUnit.powerOn]
  refine ⟨fun i => by simp [holders, refs], fun i => by rw [holders]; exact count_allSlots i,
    fun _ => rfl, rfl, fun k => ?_⟩
  rw [line_heldInReset]
  exact LineInOrder.powerOn _ false

theorem allSlots_eq : allSlots = 0 :: allSlots.tail := by decide

theorem grantTo_of_free {is : List SlotIx} (e : s.pool.free = i :: is) : grantTo k s =
    (((s.modPool fun p => { p with free := is }).modSlot i
      fun x => { x with arrival := some k, holders := 1, retry := 0 }).modPool
        fun p => { p with waiters := LineSet.erase p.waiters k, lastGranted := k }).modLine k
          fun l => { l with reservation := some i } := by
  simp [grantTo, allocate, e]

/-- The power-on state is that of RSTn held low with the management line brought up and granted S0 (R54). -/
theorem orderly_powerOn (p : Straps) : Orderly (State.powerOn p) := by
  have up : Orderly ((State.heldInReset p).modLine p.mgmtLine fun _ => LineRec.powerOn true) :=
    (orderly_heldInReset p).modLine (fun i => by rw [line_heldInReset, refs_powerOn, refs_powerOn])
      fun _ => LineInOrder.powerOn _ true
  have granted := up.grantTo (k := p.mgmtLine) (by rw [State.line_modLine_same]; rfl) nofun nofun
  rw [grantTo_of_free (show _ = 0 :: allSlots.tail from allSlots_eq)] at granted
  refine granted.of_ledger ?_
  simp only [State.ledger, Ledger.mk.injEq]
  refine ⟨?lines, funext fun i => ?holders, rfl, ?waiters, rfl, rfl, rfl, rfl⟩
  case lines => simp [State.modLine, State.setLine, State.line, State.heldInReset, State.powerOn,
    Vector.get_eq_getElem]
  case holders =>
    rw [State.modLine_slot, State.modPool_slot, State.slot_modSlot]
    obtain rfl | ne := eq_or_ne i 0
    · rfl
    · have hv : 0 ≠ i.val := fun e => ne (Fin.ext e.symm)
      simp [ne, hv, State.slot, State.powerOn, State.heldInReset, Vector.get_eq_getElem]
  case waiters => simp [State.heldInReset, State.powerOn, Pool.powerOn, LineSet.erase]

/-! ## Events of lines and timers -/

theorem Books.transmitDone (h : Orderly s) : Orderly (transmitDone k s) := by
  unfold Machine.transmitDone
  split
  · exact h
  · next e => exact (h.completeTx e).restartIfDue

theorem Books.windowExpiry (h : Books o held s) : Books o held (windowExpiry k s) := by
  unfold Machine.windowExpiry
  split
  · next w node _ =>
    have closed : Books o held ((Machine.closeWindow k s).modLine k LineRec.startTurnaround) := by
      refine h.closeWindow.modLine_keeps ?_
      unfold LineRec.startTurnaround
      split <;> rfl
    have missed := closed.countLine (k := k) (c := .pollMiss) |>.presenceMiss (k := k) (node := node)
    cases w
    exacts [missed, missed.awaitExpiry]
  · exact h
  · exact h

theorem Books.enterFault (h : Orderly s) (active : (s.line k).state = .active) :
    Orderly (enterFault k s) := by
  unfold Machine.enterFault
  refine Books.restartIfDue (Books.dropHeldReply (Books.noteEvent (Books.flushLine ?_ _)))
  exact h.modLine_status ((h.lines k).mode_ne_off (by simp [active])) rfl

theorem Books.returnToMark (h : Books o held s) : Books o held (returnToMark k s) := by
  unfold Machine.returnToMark
  dsimp only
  split
  · exact Books.abandonFrame (h.modLine_keeps rfl)
  · exact h.modLine_keeps rfl

theorem Books.recover (h : Books o held s) (down : (s.line k).state = .fault) :
    Books o held (recover k s) :=
  Books.noteEvent (h.modLine_status ((h.lines k).mode_ne_off (by simp [down])) rfl)

theorem Books.intervalExpiry (h : Books o held s) : Books o held (intervalExpiry s) :=
  Books.emissionTest (h.of_ledger rfl)

theorem Books.lapse (h : Books o held s) : Books o held (lapse s) := by
  have ended : Books o held (endClaim s) := h.of_ledger rfl
  unfold Machine.lapse
  split
  · exact ended.noteEvent
  · exact ended

/-! ## Management commands -/

/-- A command's own part keeps the books of a state in which it is executed. -/
def Body.KeepsBooks (body : Body) : Prop :=
  ∀ (c : Cmd) (s : State), Orderly s → OffLinesEmpty s → s.agent.state = .executing →
    Orderly (body c s).1

theorem Books.complete {body : Body} {c : Cmd} (keeps : body.KeepsBooks) (h : Orderly s)
    (off : OffLinesEmpty s) (executing : s.agent.state = .executing) : Orderly (complete body c s) := by
  have reply {u : State} {bytes : List Byte} (h : Orderly u) :
      Orderly (Machine.restartIfDue (Machine.offerReply (buildReply c bytes u))) :=
    (Books.offerReply h.modFrame).restartIfDue
  have decided : Orderly (c.decide body s).1 := by
    unfold Cmd.decide
    split
    · exact h
    · split
      · exact h
      · split
        · split <;> exact h
        · exact keeps c s h off executing
  have recorded {r : Reply} : Orderly (recordReply c r (c.decide body s).1) := by
    unfold recordReply
    split
    · exact decided.of_ledger rfl
    · exact decided
  unfold Machine.complete
  split
  · exact reply (h.of_ledger rfl : Orderly (startLease s))
  · exact reply recorded

theorem State.command_of_commandOf {code : Byte} {c : Cmd} (e : s.commandOf code = some c) :
    s.command = some c := by
  unfold State.commandOf at e
  exact (Option.filter_eq_some_iff.mp e).1

theorem Books.execCommand {code : Byte} {body : Body} (keeps : body.KeepsBooks) (h : Orderly s)
    (off : OffLinesEmpty s) (e : execCommand code body s = .next t) : Orderly t := by
  refine h.event e fun _ => ?_
  split
  · next c ec => exact h.complete keeps off (State.state_of_command (State.command_of_commandOf ec))
  · exact h

theorem Books.execNoticeCommand {code : Byte} {body : Body} (keeps : body.KeepsBooks) (h : Orderly s)
    (off : OffLinesEmpty s) (e : execNoticeCommand code body s = .next t) : Orderly t := by
  refine h.event e fun _ => ?_
  split
  · next c ec =>
    exact (h.complete keeps off (State.state_of_command (State.command_of_commandOf ec))).emissionTest
  · exact h

theorem Books.execUnknownCommand (h : Orderly s) (off : OffLinesEmpty s)
    (e : execUnknownCommand s = .next t) : Orderly t := by
  refine h.event e fun _ => ?_
  split
  · next c ec => exact h.complete (fun _ _ h _ _ => h) off (State.state_of_command ec)
  · exact h

/-! ### Commands that read -/

theorem identBody_keepsBooks : Body.KeepsBooks identBody := fun _ _ h _ _ => h

theorem poolReadBody_keepsBooks : Body.KeepsBooks poolReadBody := fun _ _ h _ _ => h

theorem relayReadBody_keepsBooks : Body.KeepsBooks relayReadBody := fun _ _ h _ _ => h

theorem noticeReadBody_keepsBooks : Body.KeepsBooks noticeReadBody := fun _ _ h _ _ => h

theorem lineReadBody_keepsBooks : Body.KeepsBooks lineReadBody := fun c s h _ _ => by
  unfold lineReadBody
  split <;> exact h

theorem routeReadBody_keepsBooks : Body.KeepsBooks routeReadBody := fun c s h _ _ => by
  unfold routeReadBody
  dsimp only
  split
  · split <;> exact h
  · split <;> exact h
  · exact h

theorem pollReadBody_keepsBooks : Body.KeepsBooks pollReadBody := fun c s h _ _ => by
  unfold pollReadBody
  split
  · exact h
  · dsimp only; split <;> exact h

/-! ### Commands that change no line -/

theorem claimBody_keepsBooks : Body.KeepsBooks claimBody := fun c s h _ _ => by
  unfold claimBody
  split
  · exact h.of_ledger rfl
  · exact h
  · split
    · exact h.of_ledger rfl
    · exact h

theorem releaseBody_keepsBooks : Body.KeepsBooks releaseBody := fun _ _ h _ _ => h.of_ledger rfl

theorem routeWriteBody_keepsBooks : Body.KeepsBooks routeWriteBody := fun c s h _ _ => by
  unfold routeWriteBody
  dsimp only
  split
  · exact h
  · split
    · exact h
    · split
      · exact h
      · split
        · exact h
        · split
          · exact h
          · exact h.of_ledger rfl

theorem routeClearBody_keepsBooks : Body.KeepsBooks routeClearBody := fun c s h _ _ => by
  unfold routeClearBody
  dsimp only
  split
  · exact h.of_ledger rfl
  · split
    · exact h
    · exact h.of_ledger rfl

theorem routeCopyBody_keepsBooks : Body.KeepsBooks routeCopyBody := fun _ _ h _ _ => h.of_ledger rfl

theorem routeCommitBody_keepsBooks : Body.KeepsBooks routeCommitBody := fun c s h _ _ => by
  unfold routeCommitBody
  dsimp only
  split
  · exact h
  · split
    · exact h
    · exact h.of_ledger rfl

theorem relaySetBody_keepsBooks : Body.KeepsBooks relaySetBody := fun c s h _ _ => by
  have written (v : RelayValues) : Orderly (writeRelayValues v s) := h.of_ledger rfl
  unfold relaySetBody
  dsimp only
  split
  · exact h
  · dsimp only; exact (written _).grantWaiters.evaluatePool

theorem Books.withdrawIfEnded (h : Books o held s) : Books o held (withdrawIfEnded s) := by
  unfold Machine.withdrawIfEnded
  split
  · exact h
  · exact h.of_ledger rfl

theorem noticeSetBody_keepsBooks : Body.KeepsBooks noticeSetBody := fun c s h _ _ => by
  unfold noticeSetBody
  split
  · exact h
  · exact Books.withdrawIfEnded (h.of_ledger rfl)

theorem noticeAckBody_keepsBooks : Body.KeepsBooks noticeAckBody := fun c s h _ _ => by
  unfold noticeAckBody
  dsimp only
  split
  · exact h
  · split
    · exact h
    · exact Books.withdrawIfEnded (h.of_ledger rfl)

/-- RESTART makes the warm restart pending, which needs the OFF lines empty (R145, R176). -/
theorem restartBody_keepsBooks : Body.KeepsBooks restartBody := fun _ _ h off _ =>
  ⟨h.counted, h.free, nofun, h.building, fun k =>
    { h.lines k with intake := nofun, off := fun _ => off.bare }⟩

/-! ### Commands on a line -/

theorem countReadBody_keepsBooks : Body.KeepsBooks countReadBody := fun c s h _ _ => by
  unfold countReadBody
  dsimp only
  split
  · dsimp only; split; exacts [h.modLine_keeps rfl, h]
  · split
    · dsimp only; split; exacts [h.of_ledger rfl, h]
    · exact h

theorem pollWriteBody_keepsBooks : Body.KeepsBooks pollWriteBody := fun c s h _ _ => by
  unfold pollWriteBody
  split
  · exact h
  · dsimp only
    split
    · exact h
    · split
      · exact h
      · split
        · exact h
        · split
          · exact h
          · dsimp only; exact h.modLine_keeps rfl

theorem pollRemoveBody_keepsBooks : Body.KeepsBooks pollRemoveBody := fun c s h _ _ => by
  unfold pollRemoveBody
  split
  · exact h
  · dsimp only
    split
    · exact h
    · dsimp only; exact h.modLine_keeps rfl

theorem lineResetBody_keepsBooks : Body.KeepsBooks lineResetBody := fun c s h _ _ => by
  unfold lineResetBody
  split
  · exact h
  · unfold resetLine
    dsimp only
    split
    · exact h
    · exact Books.flushLine (h.modLine_keeps rfl) _

theorem Books.releaseReservation (h : Books {} held s) : Books {} held (releaseReservation k s) := by
  unfold Machine.releaseReservation
  split
  · next e => exact (h.beginIntake e).takeReservation.releaseRef.endIntake
  · exact h

theorem Books.lineUp (h : Books {} held s) (running : s.agent.state ≠ .restartPending)
    (empty : (s.line k).reservation = none) : Books {} held (lineUp k s) := by
  refine Books.noteEvent (Books.requestReservation
    (h.modLine_status (fun pending => absurd pending running) rfl) ?_ nofun
    fun pending => absurd pending running)
  rw [State.line_modLine_same]
  exact empty

theorem Books.lineDown (h : Books {} held s) (running : s.agent.state ≠ .restartPending) {p : Bool} :
    Books {} held (lineDown k p s) := by
  have unlisted : Books {} held (s.modPool fun p => { p with waiters := LineSet.erase p.waiters k }) :=
    h.modPool rfl fun j => by simp only [LineSet.has_erase, Bool.and_eq_true]; exact And.left
  have down := unlisted.modLine_status (k := k) (f := fun l =>
    { l with
      state := .off, turnaround := none, faultTimer := none, recovery := none
      rx := Receiver.idleStopped }) (fun pending => absurd pending running) rfl
  exact (down.flushLine p).releaseReservation.noteEvent

theorem Books.changeLineState (h : Books {} held s) (running : s.agent.state ≠ .restartPending)
    {old : LineRec} (empty : old.state = .off → (s.line k).reservation = none) :
    Books {} held (changeLineState k old s) := by
  unfold Machine.changeLineState
  split
  · next off => split; exacts [h, h.lineUp running (empty off)]
  · split; exacts [h.lineDown running, h]

theorem Books.turnAfterSet (h : Books {} held s) {old : LineRec} : Books {} held (turnAfterSet k old s) := by
  obtain ⟨e, turn, -⟩ | ⟨e, -⟩ := turnAfterSet_cases s k old
  · rw [e]; exact h.takeTurn (LineRec.tp_of_takesTurn turn)
  · rw [e]; exact h

theorem Books.carryOutLineSet {ops : List Byte} (h : Books {} held s) (off : OffLinesEmpty s)
    (running : s.agent.state ≠ .restartPending) : Books {} held (carryOutLineSet k ops s) := by
  have set : Books {} held (s.modLine k fun l => { l with config := l.config.changed ops }) :=
    h.modLine_status (fun pending => absurd pending running) rfl
  refine (set.changeLineState running fun down => ?_).turnAfterSet
  obtain ⟨-, -, -, -, -, -, hres, -⟩ := ((off k).2 down).1
  rw [State.line_modLine_same]
  exact hres

theorem lineSetBody_keepsBooks : Body.KeepsBooks lineSetBody := fun c s h off executing => by
  unfold lineSetBody
  split
  · exact h
  · split
    · exact h
    · dsimp only; exact h.carryOutLineSet off (by simp [executing])

/-! ## Every command -/

theorem Books.exec {c : Instr} (h : Orderly s) (off : OffLinesEmpty s) (e : exec c s = .next t) :
    Orderly t := by
  cases c with
  | rstnAssert => cases e; exact (orderly_heldInReset s.straps).of_ledger rfl
  | rstnRelease addr msel => cases e; exact (orderly_powerOn _).of_ledger rfl
  | characterReceived k c => rw [exec_characterReceived] at e; exact h.event e fun _ => h.takeChar
  | gapTimerExpiry k => rw [exec_gapTimerExpiry] at e; exact h.event e fun _ => h.abandonFrame
  | quietTimerExpiry k => rw [exec_quietTimerExpiry] at e; exact h.event e fun _ => h.quietExpiry
  | receiveCompletion k b => exact h.event e fun _ => h.takeChar
  | reservationGrant => rw [exec_reservationGrant] at e; exact h.event e fun _ => h.grantOne
  | transmitSelection k =>
    rw [exec_transmitSelection] at e
    exact h.event e fun p => h.selectDirect (LineRec.tp_of_selects p)
  | polledTurn k => rw [exec_polledTurn] at e; exact h.event e fun p => h.takeTurn (LineRec.tp_of_takesTurn p)
  | transmitCompletion k => rw [exec_transmitCompletion] at e; exact h.event e fun _ => h.transmitDone
  | confirmTimerExpiry k =>
    have stopped : Orderly (s.modLine k fun l => { l with confirmTimer := none }) := h.modLine_keeps rfl
    rw [exec_confirmTimerExpiry] at e
    exact h.event e fun _ => stopped.awaitExpiry
  | replyWindowExpiry k => rw [exec_replyWindowExpiry] at e; exact h.event e fun _ => h.windowExpiry
  | turnaroundEnd k => rw [exec_turnaroundEnd] at e; exact h.event e fun _ => h.modLine_keeps rfl
  | pollPauseExpiry k => rw [exec_pollPauseExpiry] at e; exact h.event e fun _ => h.modLine_keeps rfl
  | faultTimerExpiry k =>
    rw [exec_faultTimerExpiry] at e
    refine h.event e fun p => h.enterFault ?_
    simp only [Bool.and_eq_true, decide_eq_true_eq] at p
    exact p.1
  | rxdReturnToMark k => rw [exec_rxdReturnToMark] at e; exact h.event e fun _ => h.returnToMark
  | rxdSpaceInFault k => rw [exec_rxdSpaceInFault] at e; exact h.event e fun _ => h.modLine_keeps rfl
  | recoveryTimerExpiry k =>
    rw [exec_recoveryTimerExpiry] at e
    refine h.event e fun p => h.recover ?_
    simp only [Bool.and_eq_true, decide_eq_true_eq] at p
    exact p.1
  | agentTake => rw [exec_agentTake] at e; exact h.event e fun _ => h.takeCommand
  | unknownCommand => exact h.execUnknownCommand off e
  | replyWaitRoom => rw [exec_replyWaitRoom] at e; exact h.event e fun _ => h.giveRoom.restartIfDue
  | ident => exact h.execCommand identBody_keepsBooks off e
  | claim => exact h.execCommand claimBody_keepsBooks off e
  | release => exact h.execCommand releaseBody_keepsBooks off e
  | routeRead => exact h.execCommand routeReadBody_keepsBooks off e
  | routeWrite => exact h.execCommand routeWriteBody_keepsBooks off e
  | routeClear => exact h.execCommand routeClearBody_keepsBooks off e
  | routeCopy => exact h.execCommand routeCopyBody_keepsBooks off e
  | routeCommit => exact h.execCommand routeCommitBody_keepsBooks off e
  | lineRead => exact h.execCommand lineReadBody_keepsBooks off e
  | lineSet => exact h.execCommand lineSetBody_keepsBooks off e
  | lineReset => exact h.execCommand lineResetBody_keepsBooks off e
  | pollRead => exact h.execCommand pollReadBody_keepsBooks off e
  | pollWrite => exact h.execCommand pollWriteBody_keepsBooks off e
  | pollRemove => exact h.execCommand pollRemoveBody_keepsBooks off e
  | countRead => exact h.execCommand countReadBody_keepsBooks off e
  | poolRead => exact h.execCommand poolReadBody_keepsBooks off e
  | relayRead => exact h.execCommand relayReadBody_keepsBooks off e
  | relaySet => exact h.execCommand relaySetBody_keepsBooks off e
  | noticeRead => exact h.execCommand noticeReadBody_keepsBooks off e
  | noticeSet => exact h.execNoticeCommand noticeSetBody_keepsBooks off e
  | noticeAck => exact h.execNoticeCommand noticeAckBody_keepsBooks off e
  | restart => exact h.execCommand restartBody_keepsBooks off e
  | warmRestart =>
    rw [exec_warmRestart] at e
    exact h.event e fun p => h.warmRestart (Agent.state_of_restartDue p)
  | leaseExpiry => rw [exec_leaseExpiry] at e; exact h.event e fun _ => h.lapse
  | noticeSlotServed => rw [exec_noticeSlotServed] at e; exact h.event e fun _ => h.serveNotice
  | noticeIntervalExpiry => rw [exec_noticeIntervalExpiry] at e; exact h.event e fun _ => h.intervalExpiry
  | startBit k mid => rw [exec_startBit] at e; exact h.event e fun _ => h.startChar

theorem Books.step (h : Orderly s) (off : OffLinesEmpty s) (e : step s = .next t) : Orderly t := by
  unfold Machine.step at e
  split at e
  · cases e; exact h
  · next c rest _ =>
    have taken : Orderly { s with pending := rest } := h.of_ledger rfl
    exact taken.exec off e

/-- Settles O15: within an event the books of the pool (`Books`) stand, the references that the event has in
hand counted in; every operation keeps them, and between events nothing is in hand. -/
theorem referencesStayCounted : Obligations.ReferencesStayCounted := by
  intro s t counted apart off notices e
  have orderly := (orderly_of_invariants counted apart off notices).step off e
  exact ⟨orderly.referencesCounted, orderly.placesExclusive⟩

end Sys2Proof.Machine
end

section
/-! PROOFS. The active route table and its generation: every operation but a commit leaves them alone, the warm
restart too, so that of all commands only ROUTE-COMMIT and those of RSTn can change them. -/

namespace Sys2Proof.Machine

variable (s : State) (j k : Line) (i : SlotIx)

/-! ## The table in force -/

/-- The active table with its generation: what lookups go by and a commit alone replaces (R57, R75). -/
def State.inForce (s : State) : RouteTable × BitVec 16 := (s.route.active, s.route.generation)

theorem State.inForce_eq_iff {s t : State} : t.inForce = s.inForce ↔
    t.route.active = s.route.active ∧ t.route.generation = s.route.generation :=
  Prod.mk_inj

theorem State.tables_of_globals {s t : State} (h : t.globals = s.globals) : t.route.active = s.route.active ∧
    t.route.generation = s.route.generation ∧ t.route.shadow = s.route.shadow :=
  ⟨congrArg Globals.active h, congrArg Globals.generation h, congrArg Globals.shadow h⟩

theorem Steady.inForce {s t : State} (h : Steady s t) : t.inForce = s.inForce :=
  have ⟨active, generation, _⟩ := State.tables_of_globals h.globals
  State.inForce_eq_iff.mpr ⟨active, generation⟩

@[simp] theorem State.modLine_inForce (f : LineRec → LineRec) : (s.modLine k f).inForce = s.inForce := rfl
@[simp] theorem State.modSlot_inForce (f : Slot → Slot) : (s.modSlot i f).inForce = s.inForce := rfl
@[simp] theorem State.modFrame_inForce (f : Frame → Frame) : (s.modFrame i f).inForce = s.inForce := rfl
@[simp] theorem State.modPool_inForce (f : Pool → Pool) : (s.modPool f).inForce = s.inForce := rfl
@[simp] theorem State.modAgent_inForce (f : Agent → Agent) : (s.modAgent f).inForce = s.inForce := rfl
@[simp] theorem State.modNotice_inForce (f : NoticeUnit → NoticeUnit) : (s.modNotice f).inForce = s.inForce := rfl

theorem State.modRoute_inForce {f : RouteUnit → RouteUnit} (active : (f s.route).active = s.route.active)
    (generation : (f s.route).generation = s.route.generation) : (s.modRoute f).inForce = s.inForce :=
  State.inForce_eq_iff.mpr ⟨active, generation⟩

theorem foldl_keeps {σ α β : Type} (view : σ → β) {f : σ → α → σ} (keeps : ∀ x a, view (f x a) = view x)
    (l : List α) (x : σ) : view (l.foldl f x) = view x :=
  l.foldlRecOn f (motive := fun y => view y = view x) rfl fun y hy a _ => (keeps y a).trans hy

/-! ## Pool, notices and counters -/

@[simp] theorem noteEvent_inForce (q : NoticeKind) (l : Option Line) (v : Option Addr) :
    (noteEvent q l v s).inForce = s.inForce := (noteEvent_steady q l v s).inForce

@[simp] theorem countLine_inForce (c : LineCounter) : (countLine k c s).inForce = s.inForce :=
  (countLine_steady k c s).inForce

@[simp] theorem countRelay_inForce (c : RelayCounter) : (countRelay c s).inForce = s.inForce :=
  (countRelay_steady c s).inForce

@[simp] theorem emissionTest_inForce : (emissionTest s).inForce = s.inForce := (emissionTest_steady s).inForce

@[simp] theorem dropRef_inForce : (dropRef i s).inForce = s.inForce := (dropRef_steady i s).inForce

@[simp] theorem poolService_inForce : (poolService s).inForce = s.inForce := (poolService_steady s).inForce

@[simp] theorem releaseRef_inForce : (releaseRef i s).inForce = s.inForce := (releaseRef_steady i s).inForce

@[simp] theorem grantOne_inForce : (grantOne s).inForce = s.inForce := (grantOne_steady s).inForce

@[simp] theorem grantWaiters_inForce : (grantWaiters s).inForce = s.inForce := (grantWaiters_steady s).inForce

@[simp] theorem serveNotice_inForce : (serveNotice s).inForce = s.inForce := (serveNotice_steady s).inForce

@[simp] theorem requestReservation_inForce : (requestReservation k s).inForce = s.inForce :=
  (requestReservation_steady k s).inForce

@[simp] theorem evaluatePool_inForce : (evaluatePool s).inForce = s.inForce := (evaluatePool_steady s).inForce

/-! ## Forwarding -/

@[simp] theorem admitNormal_inForce : (admitNormal j i s).1.inForce = s.inForce :=
  (admitNormal_steady j i s).inForce

@[simp] theorem makeReturn_inForce (r : Reason) : (makeReturn r i s).inForce = s.inForce :=
  (makeReturn_steady r i s).inForce

@[simp] theorem routeReturn_inForce : (routeReturn i s).inForce = s.inForce := (routeReturn_steady i s).inForce

@[simp] theorem returnFrame_inForce (r : Reason) : (returnFrame r i s).inForce = s.inForce :=
  (returnFrame_steady r i s).inForce

@[simp] theorem offerCopy_inForce : (offerCopy i s j).inForce = s.inForce := by
  unfold offerCopy
  dsimp only
  split <;> simp

@[simp] theorem broadcast_inForce : (broadcast k i s).inForce = s.inForce := by
  unfold broadcast
  dsimp only
  split
  · simp
  · rw [releaseRef_inForce, foldl_keeps State.inForce fun s j => offerCopy_inForce s j i, State.modFrame_inForce]

@[simp] theorem acceptCommand_inForce : (acceptCommand k i s).inForce = s.inForce := by
  unfold acceptCommand
  split
  · simp
  · split <;> simp

@[simp] theorem routeReceived_inForce : (routeReceived k i s).1.inForce = s.inForce := by
  unfold routeReceived
  split
  · exact acceptCommand_inForce s k i
  · exact broadcast_inForce s k i
  · dsimp only; split <;> simp
  · dsimp only; split <;> simp

@[simp] theorem oweConf_inForce (e : ConfEntry) : (oweConf k e s).inForce = s.inForce := by
  unfold oweConf
  split <;> simp

@[simp] theorem acceptConfirmed_inForce (f : Frame) : (acceptConfirmed k f s).inForce = s.inForce := by
  simp [acceptConfirmed]

/-! ## The line engine -/

@[simp] theorem clearAwait_inForce : (clearAwait k s).inForce = s.inForce := rfl
@[simp] theorem closeWindow_inForce : (closeWindow k s).inForce = s.inForce := rfl
@[simp] theorem openWindow_inForce (o : Origin) (node : Addr) : (openWindow k o node s).inForce = s.inForce := rfl

@[simp] theorem offerConf_inForce (c : Frame) : (offerConf k c s).inForce = s.inForce := by
  unfold offerConf
  split
  · split <;> simp
  · simp

@[simp] theorem awaitExpiry_inForce : (awaitExpiry k s).inForce = s.inForce := by
  unfold awaitExpiry
  split
  · split <;> simp
  all_goals rfl

@[simp] theorem returnAbsentAwait_inForce (node : Addr) : (returnAbsentAwait k node s).inForce = s.inForce := by
  have returned (i : SlotIx) : (returnFrame .absent i (clearAwait k s)).inForce = s.inForce := by simp
  unfold returnAbsentAwait
  split
  · split; exacts [returned _, rfl]
  · split; exacts [returned _, rfl]
  all_goals rfl

@[simp] theorem presenceMiss_inForce (node : Addr) : (presenceMiss k node s).inForce = s.inForce := by
  unfold presenceMiss
  dsimp only
  split
  · rfl
  · split <;> simp

@[simp] theorem presenceGood_inForce (node : Addr) : (presenceGood k node s).inForce = s.inForce := by
  unfold presenceGood
  dsimp only
  split
  · rfl
  · split <;> simp

@[simp] theorem damagedReply_inForce : (damagedReply k s).inForce = s.inForce := by
  unfold damagedReply
  split <;> simp

@[simp] theorem noteReplyGone_inForce : (noteReplyGone i s).inForce = s.inForce := (noteReplyGone_steady i s).inForce

@[simp] theorem flushDrop_inForce : (flushDrop s i).inForce = s.inForce := by simp [flushDrop]

@[simp] theorem flushRef_inForce (acc : State × List SlotIx) : (flushRef acc i).1.inForce = acc.1.inForce := by
  unfold flushRef
  split <;> simp

@[simp] theorem flushTp_inForce (tp : Option TxItem) : (flushTp tp s).1.inForce = s.inForce := by
  unfold flushTp
  split <;> simp

@[simp] theorem flushAwait_inForce (a : Await) (acc : State × List SlotIx) :
    (flushAwait a acc).1.inForce = acc.1.inForce := by
  unfold flushAwait
  split <;> simp

@[simp] theorem flushFrames_inForce (l : LineRec) : (flushFrames l s).1.inForce = s.inForce := by
  unfold flushFrames
  dsimp only
  rw [foldl_keeps State.inForce fun s i => flushDrop_inForce s i,
    foldl_keeps (·.1.inForce) fun acc i => flushRef_inForce i acc, flushAwait_inForce, flushTp_inForce]

/-- A flush leaves the table in force alone, whatever it returns and drops (R85, R86). -/
@[simp] theorem flushLine_inForce (polled : Bool) : (flushLine k polled s).inForce = s.inForce := by
  unfold flushLine
  dsimp only
  rw [evaluatePool_inForce, poolService_inForce, foldl_keeps State.inForce fun s i => routeReturn_inForce s i,
    flushFrames_inForce, State.modLine_inForce]

@[simp] theorem startAwait_inForce : (startAwait k i s).inForce = s.inForce := by
  unfold startAwait
  dsimp only
  split <;> simp

@[simp] theorem disposeTx_inForce (x : TxItem) : (disposeTx k x s).inForce = s.inForce := by
  unfold disposeTx
  split
  · rfl
  · simp
  · simp
  · split <;> simp
  · split <;> simp

@[simp] theorem completeTx_inForce (x : TxItem) : (completeTx k x s).inForce = s.inForce := by
  simp [completeTx]

@[simp] theorem selectDirect_inForce : (selectDirect k s).inForce = s.inForce := (selectDirect_steady k s).inForce
@[simp] theorem takeTurn_inForce : (takeTurn k s).inForce = s.inForce := (takeTurn_steady k s).inForce

/-! ## Receptions -/

@[simp] theorem toHunt_inForce : (toHunt k s).inForce = s.inForce := rfl

@[simp] theorem abandonFrame_inForce (c : LineCounter) : (abandonFrame k c s).inForce = s.inForce := by
  simp [abandonFrame]

@[simp] theorem breakCharacter_inForce : (breakCharacter k s).inForce = s.inForce := by
  unfold breakCharacter
  dsimp only
  split <;> simp

@[simp] theorem firstLook_inForce (inWindow : Bool) (f : Frame) :
    (firstLook k inWindow f s).1.inForce = s.inForce := by
  unfold firstLook
  cases f.kind with
  | nil => dsimp only; split <;> simp
  | data => dsimp only; split <;> simp
  | _ => simp

@[simp] theorem passToRoute_inForce : (passToRoute k i s).inForce = s.inForce := by
  unfold passToRoute
  dsimp only
  split <;> simp

@[simp] theorem lookAndRoute_inForce : (lookAndRoute k i s).inForce = s.inForce := by
  unfold lookAndRoute
  dsimp only
  split <;> simp

@[simp] theorem processReply_inForce (o : Origin) (node : Addr) :
    (processReply k i o node s).inForce = s.inForce := by
  unfold processReply
  cases o with
  | poll => dsimp only; split <;> split <;> simp
  | data => dsimp only; split <;> split <;> simp

@[simp] theorem decideFrame_inForce : (decideFrame k i s).inForce = s.inForce := by
  unfold decideFrame
  split
  · simp
  · split
    · split <;> simp
    · simp
    · simp

@[simp] theorem receiveComplete_inForce (good : Bool) : (receiveComplete k i good s).inForce = s.inForce := by
  unfold receiveComplete
  split <;> simp

@[simp] theorem storeByte_inForce (b : Byte) : (storeByte k b s).inForce = s.inForce := by
  unfold storeByte
  split
  · rfl
  · dsimp only
    split <;> simp

@[simp] theorem takeChar_inForce (c : RxChar) : (takeChar k c s).inForce = s.inForce := by
  unfold takeChar
  dsimp only
  split
  · simp
  · split <;> simp
  · split <;> simp
  · split
    · simp
    · split <;> simp [takeLead]

@[simp] theorem quietExpiry_inForce : (quietExpiry k s).inForce = s.inForce := by
  unfold quietExpiry
  split <;> simp [endSkip]

/-! ## The warm restart -/

/-- The requests and the notice of a warm restart leave the route tables as its clearing made them (R57, R176). -/
theorem warmRestart_globals : (warmRestart s).globals = (clearForRestart s).globals :=
  calc (warmRestart s).globals
      = (allLines.foldl requestIfUp (clearForRestart s)).globals :=
        (noteEvent_steady _ _ _ _).globals.trans (globals_recordEvent _ _ _ _)
    _ = (clearForRestart s).globals := (Steady.foldl _ requestIfUp_steady _ _).globals

/-- A warm restart keeps the table in force and reloads the shadow from it (R57). -/
theorem warmRestart_tables : (warmRestart s).route.active = s.route.active ∧
    (warmRestart s).route.generation = s.route.generation ∧
    (warmRestart s).route.shadow = s.route.active :=
  State.tables_of_globals (warmRestart_globals s)

@[simp] theorem warmRestart_inForce : (warmRestart s).inForce = s.inForce :=
  have ⟨active, generation, _⟩ := warmRestart_tables s
  State.inForce_eq_iff.mpr ⟨active, generation⟩

@[simp] theorem restartIfDue_inForce : (restartIfDue s).inForce = s.inForce := by
  unfold restartIfDue
  split <;> simp

/-! ## Events -/

@[simp] theorem transmitDone_inForce : (transmitDone k s).inForce = s.inForce := by
  unfold transmitDone
  split <;> simp

@[simp] theorem windowExpiry_inForce : (windowExpiry k s).inForce = s.inForce := by
  unfold windowExpiry
  split
  · dsimp only; split <;> simp
  all_goals rfl

@[simp] theorem enterFault_inForce : (enterFault k s).inForce = s.inForce := by
  simp [enterFault, (dropHeldReply_steady k _).inForce]

@[simp] theorem returnToMark_inForce : (returnToMark k s).inForce = s.inForce := by
  unfold returnToMark
  dsimp only
  split <;> simp [endSkip]

@[simp] theorem endClaim_inForce : (endClaim s).inForce = s.inForce := rfl

@[simp] theorem lapse_inForce : (lapse s).inForce = s.inForce := by
  unfold lapse
  split <;> simp

theorem event_inForce {s t : State} {p : Bool} {f : State → State} (e : event s p f = .next t)
    (effect : (f s).inForce = s.inForce) : t.inForce = s.inForce := by
  unfold event when at e
  cases e
  split
  · rfl
  · exact (settle_steady _).inForce.trans effect

/-! ## Management commands -/

/-- A command's own part leaves the table in force and its generation alone. -/
def Body.KeepsInForce (body : Body) : Prop := ∀ (c : Cmd) (s : State), (body c s).1.inForce = s.inForce

theorem Cmd.decide_inForce {body : Body} (keeps : body.KeepsInForce) (c : Cmd) :
    (c.decide body s).1.inForce = s.inForce := by
  unfold Cmd.decide
  split
  · rfl
  · split
    · rfl
    · split
      · split <;> rfl
      · exact keeps c s

theorem recordReply_inForce (c : Cmd) (r : Reply) : (recordReply c r s).inForce = s.inForce := by
  unfold recordReply
  split <;> rfl

theorem complete_inForce {body : Body} (keeps : body.KeepsInForce) (c : Cmd) :
    (complete body c s).inForce = s.inForce := by
  have reply (bytes : List Byte) (u : State) :
      (restartIfDue (offerReply (buildReply c bytes u))).inForce = u.inForce := by
    rw [restartIfDue_inForce, (offerReply_steady _).inForce]
    rfl
  unfold complete
  split
  · rw [reply]; rfl
  · dsimp only; rw [reply, recordReply_inForce, Cmd.decide_inForce s keeps c]

theorem execCommand_inForce {s t : State} {code : Byte} {body : Body} (keeps : body.KeepsInForce)
    (e : execCommand code body s = .next t) : t.inForce = s.inForce := by
  refine event_inForce e ?_
  split
  · exact complete_inForce s keeps _
  · rfl

theorem execNoticeCommand_inForce {s t : State} {code : Byte} {body : Body} (keeps : body.KeepsInForce)
    (e : execNoticeCommand code body s = .next t) : t.inForce = s.inForce := by
  refine event_inForce e ?_
  split
  · rw [emissionTest_inForce, complete_inForce s keeps]
  · rfl

theorem execUnknownCommand_inForce {s t : State} (e : execUnknownCommand s = .next t) :
    t.inForce = s.inForce := by
  refine event_inForce e ?_
  split
  · exact complete_inForce s (fun _ _ => rfl) _
  · rfl

/-! ### Commands that read -/

theorem lineReadBody_keepsInForce : Body.KeepsInForce lineReadBody := fun c s => by
  unfold lineReadBody
  split <;> rfl

theorem routeReadBody_keepsInForce : Body.KeepsInForce routeReadBody := fun c s => by
  unfold routeReadBody
  dsimp only
  split
  · split <;> rfl
  · split <;> rfl
  · rfl

theorem pollReadBody_keepsInForce : Body.KeepsInForce pollReadBody := fun c s => by
  unfold pollReadBody
  split
  · rfl
  · dsimp only; split <;> rfl

/-! ### Commands on the claim, the shadow table, the relay settings and the notices -/

theorem claimBody_keepsInForce : Body.KeepsInForce claimBody := fun c s => by
  unfold claimBody
  split
  · rfl
  · rfl
  · split <;> rfl

theorem routeWriteBody_keepsInForce : Body.KeepsInForce routeWriteBody := fun c s => by
  unfold routeWriteBody
  dsimp only
  split
  · rfl
  · split
    · rfl
    · split
      · rfl
      · split
        · rfl
        · split <;> rfl

theorem routeClearBody_keepsInForce : Body.KeepsInForce routeClearBody := fun c s => by
  unfold routeClearBody
  dsimp only
  split
  · rfl
  · split <;> rfl

theorem relaySetBody_keepsInForce : Body.KeepsInForce relaySetBody := fun c s => by
  unfold relaySetBody
  dsimp only
  split
  · rfl
  · rw [evaluatePool_inForce, grantWaiters_inForce]; rfl

theorem withdrawIfEnded_inForce : (withdrawIfEnded s).inForce = s.inForce := by
  unfold withdrawIfEnded
  split <;> rfl

theorem noticeSetBody_keepsInForce : Body.KeepsInForce noticeSetBody := fun c s => by
  unfold noticeSetBody
  split
  · rfl
  · exact withdrawIfEnded_inForce _

theorem noticeAckBody_keepsInForce : Body.KeepsInForce noticeAckBody := fun c s => by
  unfold noticeAckBody
  dsimp only
  split
  · rfl
  · split
    · rfl
    · exact withdrawIfEnded_inForce _

/-! ### Commands on a line -/

theorem countReadBody_keepsInForce : Body.KeepsInForce countReadBody := fun c s => by
  unfold countReadBody
  dsimp only
  split
  · dsimp only; split <;> rfl
  · split
    · dsimp only; split <;> rfl
    · rfl

theorem pollWriteBody_keepsInForce : Body.KeepsInForce pollWriteBody := fun c s => by
  unfold pollWriteBody
  split
  · rfl
  · dsimp only
    split
    · rfl
    · split
      · rfl
      · split
        · rfl
        · split <;> rfl

theorem pollRemoveBody_keepsInForce : Body.KeepsInForce pollRemoveBody := fun c s => by
  unfold pollRemoveBody
  split
  · rfl
  · dsimp only; split <;> rfl

theorem lineResetBody_keepsInForce : Body.KeepsInForce lineResetBody := fun c s => by
  unfold lineResetBody resetLine
  split
  · rfl
  · dsimp only; split <;> simp

theorem releaseReservation_inForce : (releaseReservation k s).inForce = s.inForce := by
  unfold releaseReservation
  split <;> simp

theorem changeLineState_inForce (old : LineRec) : (changeLineState k old s).inForce = s.inForce := by
  have up : (lineUp k s).inForce = s.inForce := by simp [lineUp]
  have down (polled : Bool) : (lineDown k polled s).inForce = s.inForce := by
    simp [lineDown, releaseReservation_inForce]
  unfold changeLineState
  split
  · split; exacts [rfl, up]
  · split; exacts [down _, rfl]

theorem lineSetBody_keepsInForce : Body.KeepsInForce lineSetBody := fun c s => by
  unfold lineSetBody
  split
  · rfl
  · split
    · rfl
    · dsimp only
      rw [carryOutLineSet, (turnAfterSet_steady _ _ _).inForce, changeLineState_inForce, State.modLine_inForce]

/-! ## Every command -/

/-- No command but ROUTE-COMMIT and those of RSTn changes the active table or the generation (R57). -/
theorem exec_inForce {c : Instr} {s t : State} (notCommit : c ≠ .routeCommit) (notAssert : c ≠ .rstnAssert)
    (notRelease : ∀ a m, c ≠ .rstnRelease a m) (e : exec c s = .next t) : t.inForce = s.inForce := by
  cases c with
  | rstnAssert => exact absurd rfl notAssert
  | rstnRelease addr msel => exact absurd rfl (notRelease addr msel)
  | characterReceived k c => rw [exec_characterReceived] at e; exact event_inForce e (takeChar_inForce s k c)
  | gapTimerExpiry k => rw [exec_gapTimerExpiry] at e; exact event_inForce e (abandonFrame_inForce s k _)
  | quietTimerExpiry k => rw [exec_quietTimerExpiry] at e; exact event_inForce e (quietExpiry_inForce s k)
  | receiveCompletion k b => exact event_inForce e (takeChar_inForce s k _)
  | reservationGrant => rw [exec_reservationGrant] at e; exact event_inForce e (grantOne_inForce s)
  | transmitSelection k => rw [exec_transmitSelection] at e; exact event_inForce e (selectDirect_inForce s k)
  | polledTurn k => rw [exec_polledTurn] at e; exact event_inForce e (takeTurn_inForce s k)
  | transmitCompletion k => rw [exec_transmitCompletion] at e; exact event_inForce e (transmitDone_inForce s k)
  | confirmTimerExpiry k => rw [exec_confirmTimerExpiry] at e; exact event_inForce e (awaitExpiry_inForce _ k)
  | replyWindowExpiry k => rw [exec_replyWindowExpiry] at e; exact event_inForce e (windowExpiry_inForce s k)
  | turnaroundEnd k => rw [exec_turnaroundEnd] at e; exact event_inForce e rfl
  | pollPauseExpiry k => rw [exec_pollPauseExpiry] at e; exact event_inForce e rfl
  | faultTimerExpiry k => rw [exec_faultTimerExpiry] at e; exact event_inForce e (enterFault_inForce s k)
  | rxdReturnToMark k => rw [exec_rxdReturnToMark] at e; exact event_inForce e (returnToMark_inForce s k)
  | rxdSpaceInFault k => rw [exec_rxdSpaceInFault] at e; exact event_inForce e rfl
  | recoveryTimerExpiry k => rw [exec_recoveryTimerExpiry] at e; exact event_inForce e (noteEvent_inForce _ _ _ _)
  | agentTake => rw [exec_agentTake] at e; exact event_inForce e (takeCommand_steady s).inForce
  | unknownCommand => exact execUnknownCommand_inForce e
  | replyWaitRoom =>
    rw [exec_replyWaitRoom] at e
    exact event_inForce e ((restartIfDue_inForce _).trans (giveRoom_steady s).inForce)
  | ident => exact execCommand_inForce (fun _ _ => rfl) e
  | claim => exact execCommand_inForce claimBody_keepsInForce e
  | release => exact execCommand_inForce (fun _ s => endClaim_inForce s) e
  | routeRead => exact execCommand_inForce routeReadBody_keepsInForce e
  | routeWrite => exact execCommand_inForce routeWriteBody_keepsInForce e
  | routeClear => exact execCommand_inForce routeClearBody_keepsInForce e
  | routeCopy => exact execCommand_inForce (fun _ _ => rfl) e
  | routeCommit => exact absurd rfl notCommit
  | lineRead => exact execCommand_inForce lineReadBody_keepsInForce e
  | lineSet => exact execCommand_inForce lineSetBody_keepsInForce e
  | lineReset => exact execCommand_inForce lineResetBody_keepsInForce e
  | pollRead => exact execCommand_inForce pollReadBody_keepsInForce e
  | pollWrite => exact execCommand_inForce pollWriteBody_keepsInForce e
  | pollRemove => exact execCommand_inForce pollRemoveBody_keepsInForce e
  | countRead => exact execCommand_inForce countReadBody_keepsInForce e
  | poolRead => exact execCommand_inForce (fun _ _ => rfl) e
  | relayRead => exact execCommand_inForce (fun _ _ => rfl) e
  | relaySet => exact execCommand_inForce relaySetBody_keepsInForce e
  | noticeRead => exact execCommand_inForce (fun _ _ => rfl) e
  | noticeSet => exact execNoticeCommand_inForce noticeSetBody_keepsInForce e
  | noticeAck => exact execNoticeCommand_inForce noticeAckBody_keepsInForce e
  | restart => exact execCommand_inForce (fun _ _ => rfl) e
  | warmRestart => rw [exec_warmRestart] at e; exact event_inForce e (warmRestart_inForce s)
  | leaseExpiry => rw [exec_leaseExpiry] at e; exact event_inForce e (lapse_inForce s)
  | noticeSlotServed => rw [exec_noticeSlotServed] at e; exact event_inForce e (serveNotice_inForce s)
  | noticeIntervalExpiry =>
    rw [exec_noticeIntervalExpiry] at e
    exact event_inForce e (emissionTest_inForce _)
  | startBit k mid => rw [exec_startBit] at e; exact event_inForce e rfl

/-! ## The check of a commit -/

/-- No index fails the commit check exactly when every entry passes it (R76). -/
theorem commitFailure_eq_none_iff {table : RouteTable} :
    commitFailure table = none ↔ ∀ n : Fin 64, (table.get n).commitOk = true := by
  simp [commitFailure, Vector.forall_mem_iff_forall_getElem, Vector.get_eq_getElem, Fin.forall_iff]

/-- The index found is that of the first entry that fails the commit check (R76). -/
theorem commitFailure_eq_some {table : RouteTable} {n : Fin 64} (fails : (table.get n).commitOk = false)
    (first : ∀ m < n, (table.get m).commitOk = true) : commitFailure table = some n.val := by
  refine List.findIdx?_eq_some_iff_getElem.mpr ⟨by simp, ?_, fun m hm => ?_⟩
  · simpa [Vector.get_eq_getElem] using fails
  · simpa [Vector.get_eq_getElem] using first ⟨m, hm.trans n.isLt⟩ hm

/-- A commit that expects the generation in force and finds no failing entry (R77). -/
theorem routeCommitBody_of_passes {s : State} {c : Cmd} (expected : wordAt c.ops 0 = s.route.generation)
    (passes : ∀ n : Fin 64, (s.route.shadow.get n).commitOk = true) :
    routeCommitBody c s =
      (s.modRoute (fun r => { r with active := r.shadow, generation := r.generation + 1#16 }),
        Reply.ok (wordBytes (s.route.generation + 1#16))) := by
  simp [routeCommitBody, expected, commitFailure_eq_none_iff.mpr passes]

/-- A power-on table holds 64 entries alike (R57). -/
theorem powerOn_tables (p : Straps) (n : Fin 64) :
    (State.powerOn p).route.active.get n = RouteEntry.powerOn ∧
      (State.powerOn p).route.shadow.get n = RouteEntry.powerOn := by
  simp [State.powerOn, RouteUnit.powerOn, Vector.get_eq_getElem]

/-! ## The statement -/

/-- Settles O16: power-on and commit by the tables they write, the rest by what leaves the table in force alone;
the decisions read no other table. -/
theorem activeTableOnlyByCommit : Obligations.ActiveTableOnlyByCommit := by
  refine ⟨fun p n => ?powerOn, warmRestart_tables, ?commands, ?commit, fun _ _ _ _ => ⟨rfl, rfl⟩⟩
  case powerOn =>
    obtain ⟨active, shadow⟩ := powerOn_tables p n
    exact ⟨active, shadow.trans active.symm, rfl⟩
  case commands =>
    exact fun c s t notCommit notAssert notRelease e =>
      State.inForce_eq_iff.mp (exec_inForce notCommit notAssert notRelease e)
  case commit =>
    intro c s expected passes
    rw [routeCommitBody_of_passes expected passes]
    rfl

end Sys2Proof.Machine
end

section
/-! PROOFS. The commands that edit the shadow table, and the commit: what their operand bytes decode to, what
their own parts come to, and the replies. -/

namespace Sys2Proof.Machine

variable {s : State} {c : Cmd} {b : Byte}

theorem Ready.running (ready : Ready s c) : s.agent.state ≠ .restartPending := by
  simp [State.state_of_command ready.current]

/-! ## Operand bytes (Table 12-3) -/

theorem entryOfByte?_of_eq {n : Fin 64} (h : b.toNat = n.val) : entryOfByte? b = some n := by
  simp [entryOfByte?, h]

theorem entryOfByte?_of_gt (h : 63 < b.toNat) : entryOfByte? b = none := by
  simp [entryOfByte?]; omega

theorem entryOfByte?_of_le (h : b.toNat ≤ 63) : ∃ n, entryOfByte? b = some n :=
  ⟨⟨b.toNat, by omega⟩, entryOfByte?_of_eq rfl⟩

/-- A byte of at most 1 is the byte 0 or the byte 1. -/
theorem eq_zero_or_one_of_le (h : b.toNat ≤ 1) : b = 0#8 ∨ b = 1#8 := by
  bv_omega

theorem boolOfCode?_of_le (h : b.toNat ≤ 1) : boolOfCode? b = some (decide (b = 1#8)) := by
  obtain rfl | rfl := eq_zero_or_one_of_le h <;> rfl

theorem boolOfCode?_of_gt (h : 1 < b.toNat) : boolOfCode? b = none := by
  unfold boolOfCode?
  split
  · omega
  · omega
  · rfl

theorem Rewrite.ofCode?_of_le (h : b.toNat ≤ 1) :
    Rewrite.ofCode? b = some (if b = 0#8 then .keep else .shift) := by
  obtain rfl | rfl := eq_zero_or_one_of_le h <;> rfl

theorem Rewrite.ofCode?_of_gt (h : 1 < b.toNat) : Rewrite.ofCode? b = none := by
  unfold Rewrite.ofCode?
  split
  · omega
  · omega
  · rfl

/-- A target's code is 8 for DISCARD and the line's number for a line (Table 12-3). -/
theorem Target.ofCode?_of_code {target : Target}
    (h : target = .discard ∧ b = 8#8 ∨ ∃ k : Line, target = .line k ∧ b.toNat = k.val) :
    Target.ofCode? b = some target := by
  obtain ⟨rfl, rfl⟩ | ⟨k, rfl, hk⟩ := h
  · rfl
  · have ne : b ≠ 8#8 := fun e => absurd hk (by rw [e]; exact k.isLt.ne')
    simp [Target.ofCode?, lineOfByte?, ne, hk]

theorem Target.ofCode?_of_le (h : b.toNat ≤ 8) : ∃ target, Target.ofCode? b = some target := by
  obtain e | ne := eq_or_ne b 8#8
  · exact ⟨_, Target.ofCode?_of_code (.inl ⟨rfl, e⟩)⟩
  · exact ⟨_, Target.ofCode?_of_code (.inr ⟨⟨b.toNat, by bv_omega⟩, rfl, rfl⟩)⟩

theorem Target.ofCode?_of_gt (h : 8 < b.toNat) : Target.ofCode? b = none := by
  have ne : b ≠ 8#8 := by bv_omega
  simp [Target.ofCode?, lineOfByte?, ne]; omega

/-! ## ROUTE-WRITE (R72) -/

/-- The entry that a ROUTE-WRITE with operand bytes `ops` writes, its target decoded (R72). -/
def writtenEntry (ops : List Byte) (target : Target) : RouteEntry :=
  { valid := decide (byteAt ops 1 = 1#8), low := wordAt ops 2, high := wordAt ops 4, target := target
    rewrite := if byteAt ops 7 = 0#8 then .keep else .shift
    base := wordAt ops 8, arrivals := byteAt ops 10, hairpin := decide (byteAt ops 11 = 1#8) }

theorem routeWriteBody_ok {n : Fin 64} {target : Target} (entry : (byteAt c.ops 0).toNat = n.val)
    (valid : (byteAt c.ops 1).toNat ≤ 1)
    (code : target = .discard ∧ byteAt c.ops 6 = 8#8 ∨
      ∃ k : Line, target = .line k ∧ (byteAt c.ops 6).toNat = k.val)
    (rewrite : (byteAt c.ops 7).toNat ≤ 1) (hairpin : (byteAt c.ops 11).toNat ≤ 1) :
    routeWriteBody c s =
      (s.modRoute fun r => { r with shadow := r.shadow.set n (writtenEntry c.ops target) }, Reply.ok []) := by
  simp [routeWriteBody, writtenEntry, entryOfByte?_of_eq entry, boolOfCode?_of_le valid, Target.ofCode?_of_code code,
    Rewrite.ofCode?_of_le rewrite, boolOfCode?_of_le hairpin]

theorem routeWriteBody_entry (entry : 63 < (byteAt c.ops 0).toNat) :
    routeWriteBody c s = (s, Reply.operand 1) := by
  simp [routeWriteBody, entryOfByte?_of_gt entry]

theorem routeWriteBody_valid (entry : (byteAt c.ops 0).toNat ≤ 63) (valid : 1 < (byteAt c.ops 1).toNat) :
    routeWriteBody c s = (s, Reply.operand 2) := by
  obtain ⟨n, entry⟩ := entryOfByte?_of_le entry
  simp [routeWriteBody, entry, boolOfCode?_of_gt valid]

theorem routeWriteBody_target (entry : (byteAt c.ops 0).toNat ≤ 63) (valid : (byteAt c.ops 1).toNat ≤ 1)
    (target : 8 < (byteAt c.ops 6).toNat) : routeWriteBody c s = (s, Reply.operand 5) := by
  obtain ⟨n, entry⟩ := entryOfByte?_of_le entry
  simp [routeWriteBody, entry, boolOfCode?_of_le valid, Target.ofCode?_of_gt target]

theorem routeWriteBody_rewrite (entry : (byteAt c.ops 0).toNat ≤ 63) (valid : (byteAt c.ops 1).toNat ≤ 1)
    (target : (byteAt c.ops 6).toNat ≤ 8) (rewrite : 1 < (byteAt c.ops 7).toNat) :
    routeWriteBody c s = (s, Reply.operand 6) := by
  obtain ⟨n, entry⟩ := entryOfByte?_of_le entry
  obtain ⟨target, code⟩ := Target.ofCode?_of_le target
  simp [routeWriteBody, entry, boolOfCode?_of_le valid, code, Rewrite.ofCode?_of_gt rewrite]

theorem routeWriteBody_hairpin (entry : (byteAt c.ops 0).toNat ≤ 63) (valid : (byteAt c.ops 1).toNat ≤ 1)
    (target : (byteAt c.ops 6).toNat ≤ 8) (rewrite : (byteAt c.ops 7).toNat ≤ 1)
    (hairpin : 1 < (byteAt c.ops 11).toNat) : routeWriteBody c s = (s, Reply.operand 9) := by
  obtain ⟨n, entry⟩ := entryOfByte?_of_le entry
  obtain ⟨target, code⟩ := Target.ofCode?_of_le target
  simp [routeWriteBody, entry, boolOfCode?_of_le valid, code, Rewrite.ofCode?_of_le rewrite,
    boolOfCode?_of_gt hairpin]

/-! ## ROUTE-CLEAR (R73) -/

theorem routeClearBody_one {n : Fin 64} (entry : (byteAt c.ops 0).toNat = n.val) :
    routeClearBody c s = (s.modRoute fun r => { r with shadow := r.shadow.set n (r.shadow.get n).cleared },
      Reply.ok []) := by
  have ne : byteAt c.ops 0 ≠ 0xFF#8 := by bv_omega
  simp [routeClearBody, ne, entryOfByte?_of_eq entry]

theorem routeClearBody_all (all : byteAt c.ops 0 = 0xFF#8) :
    routeClearBody c s =
      (s.modRoute fun r => { r with shadow := r.shadow.map RouteEntry.cleared }, Reply.ok []) := by
  simp [routeClearBody, all]

theorem routeClearBody_refused (entry : 63 < (byteAt c.ops 0).toNat) (one : byteAt c.ops 0 ≠ 0xFF#8) :
    routeClearBody c s = (s, Reply.operand 1) := by
  simp [routeClearBody, one, entryOfByte?_of_gt entry]

/-- Settles O53: each own part by its cases, and the execution completion of a ready command. -/
theorem shadowEditingCommands : Obligations.ShadowEditingCommands := by
  intro s c ready
  refine ⟨fun write => ⟨?written, ?entry, ?valid, ?target, ?rewrite, ?hairpin⟩,
    fun clear => ⟨?one, ?all, ?other⟩, fun copy => execCommand_ok ready copy rfl rfl ready.running⟩
  case written =>
    exact fun n target entry valid code rewrite hairpin =>
      execCommand_ok ready write (routeWriteBody_ok entry valid code rewrite hairpin) rfl ready.running
  case entry => exact fun e => execCommand_refused ready write (routeWriteBody_entry e) nofun
  case valid => exact fun e v => execCommand_refused ready write (routeWriteBody_valid e v) nofun
  case target => exact fun e v t => execCommand_refused ready write (routeWriteBody_target e v t) nofun
  case rewrite =>
    exact fun e v t r => execCommand_refused ready write (routeWriteBody_rewrite e v t r) nofun
  case hairpin =>
    exact fun e v t r h => execCommand_refused ready write (routeWriteBody_hairpin e v t r h) nofun
  case one => exact fun n e => execCommand_ok ready clear (routeClearBody_one e) rfl ready.running
  case all => exact fun e => execCommand_ok ready clear (routeClearBody_all e) rfl ready.running
  case other => exact fun e ne => execCommand_refused ready clear (routeClearBody_refused e ne) nofun

/-! ## ROUTE-COMMIT (R76) -/

/-- An entry fails the commit check when it is valid and its low is above its high or its SHIFT reaches beyond
FFFFh (R76). -/
theorem RouteEntry.commitOk_eq_false_iff {e : RouteEntry} :
    e.commitOk = false ↔ e.valid = true ∧ (e.high.toNat < e.low.toNat ∨
      (e.rewrite = .shift ∧ 0xFFFF < e.base.toNat + (e.high.toNat - e.low.toNat))) := by
  have shift : e.rewrite ≠ .keep ↔ e.rewrite = .shift := by cases e.rewrite <;> decide
  simp only [RouteEntry.commitOk, Bool.or_eq_false_iff, Bool.and_eq_false_iff, Bool.not_eq_false',
    decide_eq_false_iff_not, BitVec.le_def, not_le, shift]

theorem routeCommitBody_generation (expected : wordAt c.ops 0 ≠ s.route.generation) :
    routeCommitBody c s =
      (s, { status := .generation, detail := 0#8, results := wordBytes s.route.generation }) := by
  simp [routeCommitBody, expected]

theorem routeCommitBody_table {n : Fin 64} (expected : wordAt c.ops 0 = s.route.generation)
    (fails : (s.route.shadow.get n).commitOk = false)
    (first : ∀ m < n, (s.route.shadow.get m).commitOk = true) :
    routeCommitBody c s =
      (s, { status := .table, detail := numByte n.val, results := wordBytes s.route.generation }) := by
  simp [routeCommitBody, expected, commitFailure_eq_some fails first]

/-- Settles O54: the model's check in the terms of R76, and the three cases of the commit's own part. -/
theorem commitChecksThenReplaces : Obligations.CommitChecksThenReplaces := by
  intro s c ready code g fails
  have fails_iff (e : RouteEntry) : fails e ↔ e.commitOk = false := RouteEntry.commitOk_eq_false_iff.symm
  simp only [fails_iff, Bool.not_eq_false]
  refine ⟨?generation, ?table, ?passes⟩
  case generation =>
    exact fun expected => execCommand_refused ready code (routeCommitBody_generation expected) nofun
  case table =>
    exact fun n expected fail first =>
      execCommand_refused ready code (routeCommitBody_table expected fail first) nofun
  case passes =>
    exact fun expected passes =>
      execCommand_ok ready code (routeCommitBody_of_passes expected passes) rfl ready.running

end Sys2Proof.Machine
end

section
/-! PROOFS. Reply windows stay on ACTIVE POLLED lines: the rule for one line, what the updates of the state do
to it, and the flush, which closes the window of its line without an outcome. -/

namespace Sys2Proof.Machine

variable {s t : State} {k : Line}

/-! ## The rule for one line -/

/-- The line is ACTIVE in mode POLLED. -/
def LineRec.Polls (l : LineRec) : Prop := l.state = .active ∧ l.config.mode = .polled

/-- What `WindowsWhilePolling` says of one line. -/
def LineRec.WindowKept (l : LineRec) : Prop :=
  (l.window ≠ .closed ∨ (∃ f, l.tp = some (.poll f)) → l.Polls) ∧
    (l.windowTimer ≠ none ↔ ∃ o n, l.window = .opened o n)

theorem windowsWhilePolling_iff : WindowsWhilePolling s ↔ ∀ k, (s.line k).WindowKept := Iff.rfl

theorem WindowsWhilePolling.kept (h : WindowsWhilePolling s) (k : Line) : (s.line k).WindowKept :=
  windowsWhilePolling_iff.mp h k

/-- The part of a line that its window's rule speaks of. -/
structure PollingView where
  mode : Mode
  state : LineState
  tp : Option TxItem
  window : Window
  windowTimer : Option Nat

/-- The polling view of a line. -/
def LineRec.polling (l : LineRec) : PollingView :=
  { mode := l.config.mode, state := l.state, tp := l.tp, window := l.window, windowTimer := l.windowTimer }

theorem LineRec.WindowKept.of_polling {l l' : LineRec} (h : l.WindowKept) (e : l'.polling = l.polling) :
    l'.WindowKept := by
  simp only [LineRec.polling, PollingView.mk.injEq] at e
  obtain ⟨mode, state, tp, window, timer⟩ := e
  simpa only [LineRec.WindowKept, LineRec.Polls, mode, state, tp, window, timer] using h

/-- The polling view is part of the port and engine views. -/
theorem LineRec.polling_congr {l l' : LineRec} (port : l'.port = l.port) (engine : l'.engine = l.engine) :
    l'.polling = l.polling := by
  simp only [LineRec.port, LineRec.engine, PortView.mk.injEq, EngineView.mk.injEq] at port engine
  obtain ⟨config, state, -, -, -, -, -, -, -, -, -, -, -, -, window, timer⟩ := port
  simp only [LineRec.polling, config, state, engine.1, window, timer]

theorem LineRec.window_of_port {l l' : LineRec} (e : l'.port = l.port) : l'.window = l.window :=
  congrArg PortView.window e

theorem LineRec.pollList_of_port {l l' : LineRec} (e : l'.port = l.port) : l'.pollList = l.pollList :=
  congrArg PortView.pollList e

/-- A line with its window CLOSED and no POLL being sent may be in any state and mode. -/
theorem LineRec.WindowKept.of_closed {l : LineRec} (window : l.window = .closed) (timer : l.windowTimer = none)
    (tp : ∀ f, l.tp ≠ some (.poll f)) : l.WindowKept := by
  simp [LineRec.WindowKept, window, timer, tp]

/-- Off ACTIVE POLLED lines the window is CLOSED, its timer stopped, and no POLL is being sent (R118). -/
theorem LineRec.WindowKept.closed {l : LineRec} (h : l.WindowKept) (idle : ¬ l.Polls) :
    l.window = .closed ∧ l.windowTimer = none ∧ ∀ f, l.tp ≠ some (.poll f) := by
  obtain ⟨polls, timer⟩ := h
  have window : l.window = .closed := by_contra fun e => idle (polls (.inl e))
  exact ⟨window, by simpa [window] using timer, fun f e => idle (polls (.inr ⟨f, e⟩))⟩

/-- Steady consequences do not move a line on or off the ACTIVE POLLED lines. -/
theorem Steady.polls (e : Steady s t) (h : (s.line k).Polls) : (t.line k).Polls :=
  ⟨(e.line_state k).trans h.1, (congrArg (fun p => p.config.mode) (e.port k)).trans h.2⟩

theorem LineRec.polls_of_takesTurn {l : LineRec} (h : l.takesTurn = true) : l.Polls := by
  unfold LineRec.takesTurn at h
  simp only [Bool.and_eq_true, decide_eq_true_eq] at h
  exact h.1.1

/-! ## The rule after an update -/

/-- An update of one line by which its own rule holds again, whatever the update was made from. -/
theorem windowsWhilePolling_modLine {f : LineRec → LineRec} (line : (f (s.line k)).WindowKept)
    (others : ∀ j, j ≠ k → (s.line j).WindowKept) : WindowsWhilePolling (s.modLine k f) := fun j => by
  obtain rfl | ne := eq_or_ne j k
  · rw [State.line_modLine_same]; exact line
  · rw [State.line_modLine_ne s j k f ne]; exact others j ne

theorem WindowsWhilePolling.modLine (h : WindowsWhilePolling s) {f : LineRec → LineRec}
    (line : (s.line k).WindowKept → (f (s.line k)).WindowKept) : WindowsWhilePolling (s.modLine k f) :=
  windowsWhilePolling_modLine (line (h.kept k)) fun j _ => h.kept j

theorem WindowsWhilePolling.modLine_keeps (h : WindowsWhilePolling s) {f : LineRec → LineRec}
    (e : (f (s.line k)).polling = (s.line k).polling) : WindowsWhilePolling (s.modLine k f) :=
  h.modLine (·.of_polling e)

theorem State.line_of_lines (e : t.lines = s.lines) : t.line k = s.line k := by
  simp only [State.line, e]

theorem WindowsWhilePolling.of_lines (h : WindowsWhilePolling s) (e : t.lines = s.lines) :
    WindowsWhilePolling t := fun k => by
  rw [State.line_of_lines e]; exact h k

/-- The rule holds on through what leaves every port and engine view alone. -/
theorem WindowsWhilePolling.of_views (h : WindowsWhilePolling s) (port : ∀ k, t.port k = s.port k)
    (engine : ∀ k, t.engine k = s.engine k) : WindowsWhilePolling t :=
  fun k => (h.kept k).of_polling (LineRec.polling_congr (port k) (engine k))

theorem WindowsWhilePolling.foldl {α : Type} {f : State → α → State}
    (step : ∀ s a, WindowsWhilePolling s → WindowsWhilePolling (f s a)) (as : List α)
    (h : WindowsWhilePolling s) : WindowsWhilePolling (as.foldl f s) :=
  as.foldlRecOn f h fun s hs a _ => step s a hs

/-! ## Flush -/

theorem noteReplyGone_lines (i : SlotIx) (s : State) : (noteReplyGone i s).lines = s.lines := by
  unfold noteReplyGone
  split <;> rfl

theorem dropRef_lines (i : SlotIx) (s : State) : (dropRef i s).lines = s.lines := by
  unfold dropRef
  dsimp only
  split <;> rfl

theorem flushDrop_lines (i : SlotIx) (s : State) : (flushDrop s i).lines = s.lines :=
  (dropRef_lines i _).trans (noteReplyGone_lines i s)

theorem flushRef_lines (acc : State × List SlotIx) (i : SlotIx) : (flushRef acc i).1.lines = acc.1.lines := by
  unfold flushRef
  split
  · rfl
  · exact flushDrop_lines i _

theorem flushTp_lines (tp : Option TxItem) (s : State) : (flushTp tp s).1.lines = s.lines := by
  unfold flushTp
  split
  · rfl
  · rfl
  · rfl
  · exact flushDrop_lines _ s
  · exact flushRef_lines _ _
  · exact flushDrop_lines _ s

theorem flushAwait_lines (a : Await) (acc : State × List SlotIx) : (flushAwait a acc).1.lines = acc.1.lines := by
  unfold flushAwait
  split <;> rfl

/-- Step 3 of a flush works on slots and the agent, not on lines (R86). -/
theorem flushFrames_lines (l : LineRec) (s : State) : (flushFrames l s).1.lines = s.lines := by
  unfold flushFrames
  dsimp only
  rw [foldl_keeps State.lines fun s i => flushDrop_lines i s,
    foldl_keeps (fun acc : State × List SlotIx => acc.1.lines) flushRef_lines, flushAwait_lines, flushTp_lines]

/-- A flush leaves its line as `LineRec.emptied` has it and the other lines as they were, but for the consequences
of the RETURNs it makes and the slots it releases, which are steady and leave every engine alone (R85, R86). -/
theorem flushLine_follows (k : Line) (p : Bool) (s : State) :
    ∃ u, u.lines = (s.modLine k (LineRec.emptied p)).lines ∧ Steady u (flushLine k p s) ∧
      ∀ j, (flushLine k p s).engine j = u.engine j := by
  refine ⟨_, flushFrames_lines (s.line k) _, ?steady, fun j => ?engine⟩
  all_goals
    unfold flushLine
    dsimp only
  case steady =>
    refine Steady.trans ?_ (evaluatePool_steady _)
    exact (Steady.foldl _ (fun s i => routeReturn_steady i s) _ _).trans (poolService_steady _)
  case engine =>
    rw [evaluatePool_engine, poolService_engine]
    exact foldl_keeps (State.engine · j) (fun s i => routeReturn_engine j i s) _ _

/-- Of a line only the turnaround wait is started (R35). -/
theorem LineRec.startTurnaround_eq (l : LineRec) : ∃ w, l.startTurnaround = { l with turnaround := w } := by
  unfold LineRec.startTurnaround
  split
  exacts [⟨_, rfl⟩, ⟨l.turnaround, rfl⟩]

/-- What a flush leaves of a line's window, counters and poll list (R85, R126). -/
theorem LineRec.emptied_window (p : Bool) (l : LineRec) :
    (l.emptied p).window = .closed ∧ (l.emptied p).windowTimer = none ∧ (l.emptied p).counters = l.counters ∧
      (l.emptied p).pollList = if p then l.pollList.map PollEntry.reset else l.pollList := by
  have aborted (m : LineRec) : ∃ w, (if l.tp.isSome then m.startTurnaround else m) = { m with turnaround := w } := by
    split
    exacts [m.startTurnaround_eq, ⟨m.turnaround, rfl⟩]
  unfold LineRec.emptied
  dsimp only
  obtain ⟨w, e⟩ := aborted _
  rw [e]
  cases p <;> exact ⟨rfl, rfl, rfl, rfl⟩

theorem LineRec.windowKept_emptied (p : Bool) (l : LineRec) : (l.emptied p).WindowKept := by
  obtain ⟨window, timer, -⟩ := l.emptied_window p
  obtain ⟨-, -, -, -, -, tp, -⟩ := l.emptied_fields p
  exact .of_closed window timer (by simp [tp])

/-- After a flush the rule holds, whatever the cause of the flush has made of the line's state and mode. -/
theorem windowsWhilePolling_flushLine {p : Bool} (others : ∀ j, j ≠ k → (s.line j).WindowKept) :
    WindowsWhilePolling (flushLine k p s) := by
  obtain ⟨u, lines, steady, engine⟩ := flushLine_follows k p s
  have emptied : WindowsWhilePolling (s.modLine k (LineRec.emptied p)) :=
    windowsWhilePolling_modLine (LineRec.windowKept_emptied p _) others
  exact (emptied.of_lines lines).of_views steady.port engine

/-- A flush closes the window of its line without an outcome (R118): no miss is counted, and the poll list changes
only by the flush's own reset of presence (R126). -/
theorem flushLine_line (k : Line) (p : Bool) (s : State) : ((flushLine k p s).line k).window = .closed ∧
    ((flushLine k p s).line k).counter .pollMiss = (s.line k).counter .pollMiss ∧
    ((flushLine k p s).line k).pollList =
      if p then (s.line k).pollList.map PollEntry.reset else (s.line k).pollList := by
  obtain ⟨u, lines, steady, -⟩ := flushLine_follows k p s
  obtain ⟨window, -, counters, pollList⟩ := (s.line k).emptied_window p
  have line : u.line k = (s.line k).emptied p :=
    (State.line_of_lines lines).trans (State.line_modLine_same s k _)
  have port : ((flushLine k p s).line k).port = ((s.line k).emptied p).port := by
    rw [← line]; exact steady.port k
  refine ⟨(LineRec.window_of_port port).trans window, ?_, (LineRec.pollList_of_port port).trans pollList⟩
  rw [steady.counter k .pollMiss nofun, line]
  simp only [LineRec.counter, counters]

end Sys2Proof.Machine
end

section
/-! PROOFS. Reply windows stay on ACTIVE POLLED lines: the pool, the route unit, the line engine, and the end of an
event. -/

namespace Sys2Proof.Machine

variable {s t : State} {i : SlotIx} {j k : Line}

/-! ## Pool, notices and counters -/

theorem WindowsWhilePolling.emissionTest (h : WindowsWhilePolling s) : WindowsWhilePolling (emissionTest s) :=
  h.of_views (emissionTest_steady s).port (emissionTest_engine · s)

theorem WindowsWhilePolling.noteEvent (h : WindowsWhilePolling s) {q : NoticeKind} {l : Option Line}
    {v : Option Addr} : WindowsWhilePolling (noteEvent q l v s) :=
  WindowsWhilePolling.emissionTest (h.of_lines rfl)

theorem WindowsWhilePolling.countLine (h : WindowsWhilePolling s) {c : LineCounter} :
    WindowsWhilePolling (countLine k c s) := by
  have bumped : WindowsWhilePolling (s.bumpLine k c) := h.modLine_keeps rfl
  unfold Machine.countLine
  dsimp only
  split
  · exact bumped.noteEvent
  · exact bumped

theorem WindowsWhilePolling.countRelay (h : WindowsWhilePolling s) {c : RelayCounter} :
    WindowsWhilePolling (countRelay c s) := by
  have bumped : WindowsWhilePolling (s.bumpRelay c) := h.of_lines rfl
  unfold Machine.countRelay
  dsimp only
  split
  · exact bumped.noteEvent
  · exact bumped

theorem WindowsWhilePolling.grantTo (h : WindowsWhilePolling s) : WindowsWhilePolling (grantTo k s) :=
  h.of_views (grantTo_steady k s).port (grantTo_engine · k s)

theorem WindowsWhilePolling.grantOne (h : WindowsWhilePolling s) : WindowsWhilePolling (grantOne s) := by
  unfold Machine.grantOne
  split
  · split
    · exact h.grantTo
    · exact h
  · exact h

theorem WindowsWhilePolling.grantWaiters (h : WindowsWhilePolling s) : WindowsWhilePolling (grantWaiters s) :=
  h.of_views (grantWaiters_steady s).port (grantWaiters_engine · s)

theorem WindowsWhilePolling.serveNotice (h : WindowsWhilePolling s) : WindowsWhilePolling (serveNotice s) := by
  unfold Machine.serveNotice
  split
  · exact h.of_views (emitNotice_steady s).port (emitNotice_engine · s)
  · exact h

theorem WindowsWhilePolling.releaseRef (h : WindowsWhilePolling s) : WindowsWhilePolling (releaseRef i s) :=
  h.of_views (releaseRef_steady i s).port (releaseRef_engine · i s)

theorem WindowsWhilePolling.requestReservation (h : WindowsWhilePolling s) :
    WindowsWhilePolling (requestReservation k s) := by
  unfold Machine.requestReservation
  split
  · exact h.grantTo
  · exact h.of_lines rfl

theorem WindowsWhilePolling.evaluatePool (h : WindowsWhilePolling s) : WindowsWhilePolling (evaluatePool s) :=
  h.of_views (evaluatePool_steady s).port (evaluatePool_engine · s)

/-! ## The route unit -/

theorem WindowsWhilePolling.admitNormal (h : WindowsWhilePolling s) : WindowsWhilePolling (admitNormal j i s).1 :=
  h.of_views (admitNormal_steady j i s).port (admitNormal_engine · j i s)

theorem WindowsWhilePolling.returnFrame (h : WindowsWhilePolling s) {r : Reason} :
    WindowsWhilePolling (returnFrame r i s) :=
  h.of_views (returnFrame_steady r i s).port (returnFrame_engine · r i s)

theorem WindowsWhilePolling.offerCopy (h : WindowsWhilePolling s) : WindowsWhilePolling (offerCopy i s j) := by
  unfold Machine.offerCopy
  dsimp only
  split
  · exact h.admitNormal.of_lines rfl
  · exact h.admitNormal

theorem WindowsWhilePolling.broadcast (h : WindowsWhilePolling s) : WindowsWhilePolling (broadcast k i s) := by
  unfold Machine.broadcast
  dsimp only
  split
  · exact h.countRelay.releaseRef
  · have unconfirmed : WindowsWhilePolling (s.modFrame i fun f => { f with confirm := false }) := h.of_lines rfl
    exact (unconfirmed.foldl (fun _ _ h => h.offerCopy) _).releaseRef

theorem WindowsWhilePolling.acceptCommand (h : WindowsWhilePolling s) :
    WindowsWhilePolling (acceptCommand k i s) := by
  unfold Machine.acceptCommand
  split
  · exact h.countRelay.releaseRef
  · split
    · exact h.of_lines rfl
    · exact h.countRelay.releaseRef

theorem WindowsWhilePolling.routeReceived (h : WindowsWhilePolling s) :
    WindowsWhilePolling (routeReceived k i s).1 := by
  unfold Machine.routeReceived
  split
  · exact h.acceptCommand
  · exact h.broadcast
  · next j d _ =>
    have offered : WindowsWhilePolling
        (Machine.admitNormal j i (s.modFrame i fun f => { f with dest := d })).1 :=
      WindowsWhilePolling.admitNormal (h.of_lines rfl)
    dsimp only
    split
    · exact offered
    · dsimp only; exact offered.releaseRef
  · dsimp only
    split
    · exact h.countRelay.noteEvent.releaseRef
    · exact h.countRelay.releaseRef

/-! ## Confirmed delivery -/

theorem WindowsWhilePolling.oweConf (h : WindowsWhilePolling s) {e : ConfEntry} :
    WindowsWhilePolling (oweConf k e s) := by
  unfold Machine.oweConf
  split
  · exact h.modLine_keeps rfl
  · exact h.countLine

theorem WindowsWhilePolling.acceptConfirmed (h : WindowsWhilePolling s) {f : Frame} :
    WindowsWhilePolling (acceptConfirmed k f s) :=
  WindowsWhilePolling.oweConf (h.modLine_keeps rfl)

theorem WindowsWhilePolling.clearAwait (h : WindowsWhilePolling s) : WindowsWhilePolling (clearAwait k s) :=
  h.modLine_keeps rfl

theorem WindowsWhilePolling.offerConf (h : WindowsWhilePolling s) {c : Frame} :
    WindowsWhilePolling (offerConf k c s) := by
  unfold Machine.offerConf
  split
  · split
    · exact h.clearAwait.releaseRef
    · exact h.countLine
  · exact h.countLine

theorem WindowsWhilePolling.awaitExpiry (h : WindowsWhilePolling s) : WindowsWhilePolling (awaitExpiry k s) := by
  unfold Machine.awaitExpiry
  split
  · next i _ =>
    split
    · have retried : WindowsWhilePolling (s.modSlot i fun x => { x with retry := x.retry + 1 }) :=
        h.of_lines rfl
      exact WindowsWhilePolling.countLine (retried.modLine_keeps rfl)
    · exact h.clearAwait.countLine.returnFrame
  · exact h
  · exact h
  · exact h

/-! ## Presence and reply windows -/

theorem WindowsWhilePolling.returnAbsentAwait (h : WindowsWhilePolling s) {node : Addr} :
    WindowsWhilePolling (returnAbsentAwait k node s) := by
  unfold Machine.returnAbsentAwait
  split
  · split; exacts [h.clearAwait.returnFrame, h]
  · split; exacts [h.clearAwait.returnFrame, h]
  · exact h
  · exact h

theorem WindowsWhilePolling.presenceMiss (h : WindowsWhilePolling s) {node : Addr} :
    WindowsWhilePolling (presenceMiss k node s) := by
  unfold Machine.presenceMiss
  dsimp only
  split
  · exact h
  · split
    · exact (WindowsWhilePolling.noteEvent (h.modLine_keeps rfl)).returnAbsentAwait
    · exact h.modLine_keeps rfl

theorem WindowsWhilePolling.presenceGood (h : WindowsWhilePolling s) {node : Addr} :
    WindowsWhilePolling (presenceGood k node s) := by
  unfold Machine.presenceGood
  dsimp only
  split
  · exact h
  · split
    · exact WindowsWhilePolling.noteEvent (h.modLine_keeps rfl)
    · exact h.modLine_keeps rfl

theorem WindowsWhilePolling.closeWindow (h : WindowsWhilePolling s) : WindowsWhilePolling (closeWindow k s) :=
  h.modLine fun ⟨polls, _⟩ => ⟨fun busy => polls (.inr (busy.resolve_left fun ne => ne rfl)), by simp⟩

/-- A window is opened on an ACTIVE POLLED line (R118). -/
theorem WindowsWhilePolling.openWindow (h : WindowsWhilePolling s) (up : (s.line k).Polls) {o : Origin}
    {node : Addr} : WindowsWhilePolling (openWindow k o node s) :=
  h.modLine fun _ => ⟨fun _ => up, by simp⟩

/-- A lead takes an OPEN window to REPLYING and stops its timer (R119). -/
theorem LineRec.WindowKept.windowLead {l : LineRec} (h : l.WindowKept) : (windowLead l).WindowKept := by
  unfold Machine.windowLead
  split
  · next e => exact ⟨fun _ => h.1 (.inl (by simp [e])), by simp⟩
  · exact h
  · exact h

theorem WindowsWhilePolling.damagedReply (h : WindowsWhilePolling s) :
    WindowsWhilePolling (damagedReply k s) := by
  unfold Machine.damagedReply
  split
  · exact h.closeWindow.awaitExpiry
  · exact h.closeWindow
  · exact h
  · exact h

/-! ## Transmissions -/

/-- Of what a transmit position can take, only a POLL needs an ACTIVE POLLED line. -/
theorem WindowsWhilePolling.beginTx (h : WindowsWhilePolling s) {x : TxItem}
    (poll : ∀ f, x = .poll f → (s.line k).Polls) : WindowsWhilePolling (beginTx k x s) := by
  rw [beginTx_eq]
  refine h.modLine fun ⟨polls, timer⟩ => ⟨?_, timer⟩
  rintro (busy | ⟨f, sent⟩)
  · exact polls (.inl busy)
  · exact poll f (Option.some.inj sent)

theorem WindowsWhilePolling.sendNormal (h : WindowsWhilePolling s) : WindowsWhilePolling (sendNormal k i s) :=
  (h.modLine_keeps rfl).beginTx nofun

theorem WindowsWhilePolling.sendRetry (h : WindowsWhilePolling s) : WindowsWhilePolling (sendRetry k i s) := by
  have second : WindowsWhilePolling (s.modSlot i fun x => { x with holders := x.holders + 1 }) := h.of_lines rfl
  exact (second.modLine_keeps rfl).beginTx nofun

theorem WindowsWhilePolling.firstSources (h : WindowsWhilePolling s) (e : firstSources k s = some t) :
    WindowsWhilePolling t := by
  unfold Machine.firstSources at e
  dsimp only at e
  split at e
  · cases e; exact (h.modLine_keeps rfl).beginTx nofun
  · cases e; exact (h.modLine_keeps rfl).beginTx nofun
  · cases e; exact h.sendRetry
  all_goals cases e

theorem WindowsWhilePolling.selectDirect (h : WindowsWhilePolling s) :
    WindowsWhilePolling (selectDirect k s) := by
  unfold Machine.selectDirect
  split
  · next e => exact h.firstSources e
  · split
    · exact h.sendNormal
    · exact h

/-- The transmit completion of a confirmed frame opens a window on a POLLED line alone (R93, R118). -/
theorem WindowsWhilePolling.startAwait (h : WindowsWhilePolling s) (active : (s.line k).state = .active) :
    WindowsWhilePolling (startAwait k i s) := by
  have waiting : WindowsWhilePolling (s.modLine k fun l => { l with await := .waiting i }) :=
    h.modLine_keeps rfl
  unfold Machine.startAwait
  dsimp only
  split
  · next mode => exact waiting.openWindow ⟨by simpa using active, mode⟩
  · exact waiting.modLine_keeps rfl
  · exact waiting

theorem WindowsWhilePolling.noteReplyGone (h : WindowsWhilePolling s) :
    WindowsWhilePolling (noteReplyGone i s) := h.of_lines (noteReplyGone_lines i s)

theorem WindowsWhilePolling.disposeTx (h : WindowsWhilePolling s) {x : TxItem}
    (active : (s.line k).state = .active) (poll : ∀ f, x = .poll f → (s.line k).Polls) :
    WindowsWhilePolling (disposeTx k x s) := by
  unfold Machine.disposeTx
  cases x with
  | conf f => exact h
  | poll f => exact h.openWindow (poll f rfl)
  | urgent i => exact h.noteReplyGone.releaseRef
  | normal i =>
    dsimp only
    split
    · exact h.startAwait active
    · exact h.releaseRef
  | resend i =>
    dsimp only
    split
    · exact h.releaseRef.startAwait (((releaseRef_steady _ s).line_state k).trans active)
    all_goals exact h.releaseRef

/-- A POLL in the transmit position says that its line is ACTIVE and POLLED, so a window may open at its transmit
completion (R118). -/
theorem WindowsWhilePolling.completeTx (h : WindowsWhilePolling s) {x : TxItem}
    (e : (s.line k).tp = some x) (active : (s.line k).state = .active) :
    WindowsWhilePolling (completeTx k x s) := by
  have counted := h.countLine (k := k) (c := .txSent)
  have tp : ((Machine.countLine k .txSent s).line k).tp = some x :=
    (engine_places (countLine_engine k k .txSent s)).1.trans e
  have up : ((Machine.countLine k .txSent s).line k).state = .active := by
    rw [(countLine_steady k .txSent s).line_state k]
    simpa [State.bumpLine] using active
  have emptied : WindowsWhilePolling
      ((Machine.countLine k .txSent s).modLine k fun l => { l with tp := none }) :=
    counted.modLine fun ⟨polls, timer⟩ => ⟨fun busy => polls (.inl (busy.resolve_right nofun)), timer⟩
  refine emptied.disposeTx (by rw [State.line_modLine_same]; exact up) fun f poll => ?_
  rw [State.line_modLine_same]
  exact (counted.kept k).1 (.inr ⟨f, poll ▸ tp⟩)

/-! ## Turns -/

theorem WindowsWhilePolling.serveNormal (n : Nat) (h : WindowsWhilePolling s) :
    WindowsWhilePolling (serveNormal k n s).1 := by
  induction n generalizing s with
  | zero => exact h
  | succ n ih =>
    unfold Machine.serveNormal
    split
    · exact h
    · next i _ _ =>
      split
      · exact ih (h.of_views (removeAbsentHead_steady k i s).port (removeAbsentHead_engine k · i s))
      · exact WindowsWhilePolling.sendNormal (h.modLine_keeps rfl)

/-- A POLL is selected on an ACTIVE POLLED line (R116). -/
theorem WindowsWhilePolling.sendPoll (h : WindowsWhilePolling s) (up : (s.line k).Polls) {n : Nat} :
    WindowsWhilePolling (sendPoll k n s) :=
  (h.modLine_keeps rfl).beginTx fun _ _ => by rw [State.line_modLine_same]; exact up

theorem WindowsWhilePolling.pollSearch (n : Nat) (h : WindowsWhilePolling s) (up : (s.line k).Polls) :
    WindowsWhilePolling (pollSearch k n s) := by
  induction n generalizing s with
  | zero => exact h
  | succ n ih =>
    unfold Machine.pollSearch
    dsimp only
    split
    · exact h
    · split
      · exact h.sendPoll up
      · exact ih (h.modLine_keeps rfl) (by rw [State.line_modLine_same]; exact up)

theorem WindowsWhilePolling.takeTurn (h : WindowsWhilePolling s) (up : (s.line k).Polls) :
    WindowsWhilePolling (takeTurn k s) := by
  unfold Machine.takeTurn
  split
  · next e => exact h.firstSources e
  · split
    · have served := h.serveNormal (k := k) (serveFuel (s.line k))
      dsimp only
      split
      · exact served
      · exact served.pollSearch _ ((serveNormal_steady k _ s).polls up)
    · exact h.pollSearch _ up

/-! ## The agent's reply and the end of an event -/

theorem WindowsWhilePolling.releaseReply (h : WindowsWhilePolling s) : WindowsWhilePolling (releaseReply i s) :=
  h.of_views (releaseReply_steady i s).port (releaseReply_engine · i s)

theorem WindowsWhilePolling.offerReply (h : WindowsWhilePolling s) : WindowsWhilePolling (offerReply s) := by
  unfold Machine.offerReply
  split
  · exact h
  · next i _ =>
    split
    · exact h.releaseReply
    · split
      · split
        · next j _ _ _ =>
          have joined : WindowsWhilePolling (s.modLine j fun l => { l with urgentQ := l.urgentQ ++ [i] }) :=
            h.modLine_keeps rfl
          exact joined.of_lines rfl
        · exact h.of_lines rfl
      · exact h.releaseReply

theorem WindowsWhilePolling.dropHeldReply (h : WindowsWhilePolling s) :
    WindowsWhilePolling (dropHeldReply k s) := by
  unfold Machine.dropHeldReply
  split
  · exact h
  · split
    · exact h.releaseReply
    · exact h

theorem WindowsWhilePolling.takeCommand (h : WindowsWhilePolling s) : WindowsWhilePolling (takeCommand s) :=
  h.of_views (takeCommand_steady s).port (takeCommand_engine · s)

theorem WindowsWhilePolling.attend (h : WindowsWhilePolling s) : WindowsWhilePolling (attend s k) := by
  unfold Machine.attend
  split
  · exact h.selectDirect
  · split
    · next turn => exact h.takeTurn (LineRec.polls_of_takesTurn turn)
    · exact h

theorem WindowsWhilePolling.attendRounds (n : Nat) (h : WindowsWhilePolling s) :
    WindowsWhilePolling (attendRounds n s) := by
  induction n generalizing s with
  | zero => exact h
  | succ n ih =>
    unfold Machine.attendRounds
    split
    · exact h
    · exact ih (WindowsWhilePolling.foldl (fun _ _ h => h.attend) _ h)

theorem WindowsWhilePolling.settle (h : WindowsWhilePolling s) : WindowsWhilePolling (settle s) :=
  ((h.takeCommand.attendRounds _).evaluatePool).attendRounds _

/-- An event that does not take place leaves the state as it is; one that does is its effect with the consequences
taken. -/
theorem event_cases {p : Bool} {f : State → State} (e : event s p f = .next t) :
    t = s ∨ (p = true ∧ t = settle (f s)) := by
  unfold event when at e
  cases e
  split
  · exact .inl rfl
  · next possible =>
    simp only [Bool.or_eq_true, not_or, Bool.not_eq_true, Bool.not_eq_false'] at possible
    exact .inr ⟨possible.2, rfl⟩

theorem WindowsWhilePolling.event {p : Bool} {f : State → State} (h : WindowsWhilePolling s)
    (e : event s p f = .next t) (effect : p = true → WindowsWhilePolling (f s)) : WindowsWhilePolling t := by
  rcases event_cases e with same | ⟨possible, settled⟩
  · rw [same]; exact h
  · rw [settled]; exact (effect possible).settle

/-! ## The warm restart -/

/-- A warm restart empties every line whose mode is not OFF, and leaves the others, which have no window, as they
are (R176). -/
theorem LineRec.WindowKept.restarted {l : LineRec} (h : l.WindowKept) :
    l.restarted.WindowKept ∧ l.restarted.window = .closed := by
  unfold LineRec.restarted
  dsimp only
  split
  · next off => exact ⟨h, (h.closed fun ⟨_, polled⟩ => by simp [off] at polled).1⟩
  · have fields := LineRec.emptied_window (decide (l.config.mode = .polled))
      { l with counters := Vector.replicate 16 0#16 }
    obtain ⟨window, timer, -⟩ := fields
    obtain ⟨-, -, -, -, -, tp, -⟩ := LineRec.emptied_fields (decide (l.config.mode = .polled))
      { l with counters := Vector.replicate 16 0#16 }
    exact ⟨.of_closed window timer (by simp [tp]), window⟩

theorem WindowsWhilePolling.warmRestart (h : WindowsWhilePolling s) : WindowsWhilePolling (warmRestart s) := by
  have cleared : WindowsWhilePolling (clearForRestart s) := fun k => by
    rw [line_clearForRestart]; exact (h.kept k).restarted.1
  refine (WindowsWhilePolling.foldl (fun s k h => ?_) allLines cleared).noteEvent
  unfold requestIfUp
  split
  · exact h
  · exact h.requestReservation

theorem WindowsWhilePolling.restartIfDue (h : WindowsWhilePolling s) : WindowsWhilePolling (restartIfDue s) := by
  unfold Machine.restartIfDue
  split
  · exact h.warmRestart
  · exact h

theorem noteEvent_port (q : NoticeKind) (l : Option Line) (v : Option Addr) (s : State) (k : Line) :
    (noteEvent q l v s).port k = s.port k := (noteEvent_steady q l v s).port k

/-- The requests and the notice of a warm restart leave every port as its clearing made it (R176). -/
theorem warmRestart_port (s : State) (k : Line) : (warmRestart s).port k = (s.line k).restarted.port := by
  unfold warmRestart
  rw [noteEvent_port, (Steady.foldl _ requestIfUp_steady allLines _).port, State.port, line_clearForRestart]

end Sys2Proof.Machine
end

section
/-! PROOFS. Reply windows stay on ACTIVE POLLED lines: receptions, the other events of lines and timers, and every
command. -/

namespace Sys2Proof.Machine

variable {s t : State} {i : SlotIx} {j k : Line}

/-! ## The decision at receive completion -/

theorem WindowsWhilePolling.passToRoute (h : WindowsWhilePolling s) : WindowsWhilePolling (passToRoute k i s) := by
  have taken : WindowsWhilePolling (s.modLine k fun l => { l with reservation := none }) := h.modLine_keeps rfl
  have routed := taken.routeReceived (k := k) (i := i)
  unfold Machine.passToRoute
  dsimp only
  split
  · exact routed.acceptConfirmed.requestReservation
  · exact routed.requestReservation

theorem WindowsWhilePolling.firstLook (h : WindowsWhilePolling s) {inWindow : Bool} {f : Frame} :
    WindowsWhilePolling (firstLook k inWindow f s).1 := by
  unfold Machine.firstLook
  split
  · exact h.offerConf
  · exact h.countLine
  · dsimp only; split; exacts [h, h.countLine]
  · split; exacts [h.countLine.oweConf, h]
  all_goals exact h

theorem WindowsWhilePolling.lookAndRoute (h : WindowsWhilePolling s) :
    WindowsWhilePolling (lookAndRoute k i s) := by
  have looked := h.firstLook (k := k) (inWindow := false) (f := s.frame i)
  unfold Machine.lookAndRoute
  dsimp only
  split
  · exact looked
  · exact looked.passToRoute

theorem WindowsWhilePolling.processReply (h : WindowsWhilePolling s) {o : Origin} {node : Addr} :
    WindowsWhilePolling (processReply k i o node s) := by
  have closed := h.closeWindow (k := k)
  have looked {u : State} (h : WindowsWhilePolling u) :=
    h.firstLook (k := k) (inWindow := true) (f := s.frame i)
  unfold Machine.processReply
  cases o with
  | poll =>
    have present : WindowsWhilePolling
        (if (s.frame i).src = node then Machine.presenceGood k node (Machine.closeWindow k s)
          else Machine.presenceMiss k node (Machine.closeWindow k s)) := by
      split
      exacts [closed.presenceGood, closed.presenceMiss]
    dsimp only
    split
    · exact looked present
    · exact (looked present).passToRoute
  | data =>
    have present : WindowsWhilePolling
        (if (s.frame i).src = node then Machine.presenceGood k node (Machine.closeWindow k s)
          else Machine.closeWindow k s) := by
      split
      exacts [closed.presenceGood, closed]
    dsimp only
    split
    · exact (looked present).awaitExpiry
    · exact (looked present).awaitExpiry.passToRoute

theorem WindowsWhilePolling.decideFrame (h : WindowsWhilePolling s) : WindowsWhilePolling (decideFrame k i s) := by
  unfold Machine.decideFrame
  split
  · exact h.countRelay.damagedReply
  · split
    · split
      · exact h.processReply
      · exact h.countLine
      · exact h.countLine
    · exact h.lookAndRoute
    · exact h.lookAndRoute

/-! ## Characters -/

theorem WindowsWhilePolling.toHunt (h : WindowsWhilePolling s) : WindowsWhilePolling (toHunt k s) :=
  h.modLine_keeps rfl

theorem WindowsWhilePolling.abandonFrame (h : WindowsWhilePolling s) {c : LineCounter} :
    WindowsWhilePolling (abandonFrame k c s) := h.toHunt.countLine.damagedReply

theorem WindowsWhilePolling.receiveComplete (h : WindowsWhilePolling s) {good : Bool} :
    WindowsWhilePolling (receiveComplete k i good s) := by
  unfold Machine.receiveComplete
  split
  · exact h.toHunt.countLine.decideFrame
  · exact h.abandonFrame

theorem WindowsWhilePolling.breakCharacter (h : WindowsWhilePolling s) :
    WindowsWhilePolling (breakCharacter k s) := by
  have begun : WindowsWhilePolling (s.modLine k fun l =>
      { l with rx := { l.rx with brk := true }, faultTimer := some Config.faultMs }) := h.modLine_keeps rfl
  unfold Machine.breakCharacter
  dsimp only
  split
  · exact begun.abandonFrame
  · exact begun.countLine

theorem WindowsWhilePolling.takeLead (h : WindowsWhilePolling s) : WindowsWhilePolling (takeLead k s) := by
  refine h.modLine fun line => line.windowLead.of_polling ?_
  dsimp only
  split <;> rfl

theorem WindowsWhilePolling.storeByte (h : WindowsWhilePolling s) {b : Byte} :
    WindowsWhilePolling (storeByte k b s) := by
  unfold Machine.storeByte
  split
  · exact h
  · next i _ =>
    have stored {f : Frame} {rx : Receiver} : WindowsWhilePolling ((s.modFrame i fun _ => f).modLine k
        fun l => { l with rx := { rx with gap := some l.config.gapLimit } }) := by
      have kept : WindowsWhilePolling (s.modFrame i fun _ => f) := h.of_lines rfl
      exact kept.modLine_keeps rfl
    dsimp only
    split
    · exact stored
    · exact stored.abandonFrame
    · exact stored.receiveComplete

theorem WindowsWhilePolling.takeChar (h : WindowsWhilePolling s) {c : RxChar} :
    WindowsWhilePolling (takeChar k c s) := by
  have ended : WindowsWhilePolling (s.setLine k ((s.line k).afterChar c.stop)) :=
    h.modLine_keeps (f := (·.afterChar c.stop)) rfl
  cases e : classify (s.line k).config.parity c with
  | brk => rw [takeChar_brk e]; exact ended.breakCharacter
  | framing => rw [takeChar_error (.inl e)]; split; exacts [ended.abandonFrame, ended]
  | parity => rw [takeChar_error (.inr e)]; split; exacts [ended.abandonFrame, ended]
  | good =>
    rw [takeChar_good e]
    split
    · exact ended.storeByte
    · split
      · exact ended.takeLead
      · exact ended

theorem WindowsWhilePolling.startChar (h : WindowsWhilePolling s) : WindowsWhilePolling (startChar k s) :=
  h.modLine_keeps rfl

theorem WindowsWhilePolling.quietExpiry (h : WindowsWhilePolling s) : WindowsWhilePolling (quietExpiry k s) := by
  unfold Machine.quietExpiry
  split
  · exact h.modLine_keeps rfl
  · exact h.abandonFrame

/-! ## Reset -/

theorem LineRec.windowKept_powerOn (mgmt : Bool) : (LineRec.powerOn mgmt).WindowKept :=
  .of_closed rfl rfl nofun

theorem windowsWhilePolling_heldInReset (p : Straps) : WindowsWhilePolling (State.heldInReset p) := fun k => by
  rw [line_heldInReset]
  exact LineRec.windowKept_powerOn false

theorem windowsWhilePolling_powerOn (p : Straps) : WindowsWhilePolling (State.powerOn p) := fun k => by
  rw [State.line_powerOn]
  split
  · exact (LineRec.windowKept_powerOn true).of_polling rfl
  · exact LineRec.windowKept_powerOn false

/-! ## Events of lines and timers -/

theorem WindowsWhilePolling.transmitDone (h : WindowsWhilePolling s) (active : (s.line k).state = .active) :
    WindowsWhilePolling (transmitDone k s) := by
  unfold Machine.transmitDone
  split
  · exact h
  · next e => exact (h.completeTx e active).restartIfDue

theorem LineRec.polling_startTurnaround (l : LineRec) : l.startTurnaround.polling = l.polling := by
  obtain ⟨w, e⟩ := l.startTurnaround_eq
  rw [e]
  rfl

theorem WindowsWhilePolling.windowExpiry (h : WindowsWhilePolling s) :
    WindowsWhilePolling (windowExpiry k s) := by
  unfold Machine.windowExpiry
  split
  · next o node _ =>
    have turned : WindowsWhilePolling ((Machine.closeWindow k s).modLine k LineRec.startTurnaround) :=
      h.closeWindow.modLine_keeps (LineRec.polling_startTurnaround _)
    have missed := turned.countLine (k := k) (c := .pollMiss) |>.presenceMiss (k := k) (node := node)
    cases o
    exacts [missed, missed.awaitExpiry]
  · exact h
  · exact h

/-- A line that enters FAULT is flushed in the same event, so its window does not outlast its being ACTIVE (R22,
R118). -/
theorem WindowsWhilePolling.enterFault (h : WindowsWhilePolling s) : WindowsWhilePolling (enterFault k s) := by
  unfold Machine.enterFault
  dsimp only
  refine WindowsWhilePolling.restartIfDue (WindowsWhilePolling.dropHeldReply (WindowsWhilePolling.noteEvent
    (windowsWhilePolling_flushLine fun j ne => ?_)))
  rw [State.line_modLine_ne s j k _ ne]
  exact h.kept j

theorem WindowsWhilePolling.returnToMark (h : WindowsWhilePolling s) :
    WindowsWhilePolling (returnToMark k s) := by
  unfold Machine.returnToMark
  dsimp only
  split
  · exact WindowsWhilePolling.abandonFrame (h.modLine_keeps rfl)
  · exact h.modLine_keeps rfl

/-- A line that becomes ACTIVE keeps the rule: while it was down its window was CLOSED. -/
theorem LineRec.WindowKept.activated {l l' : LineRec} (h : l.WindowKept)
    (e : l'.polling = { l.polling with state := .active }) : l'.WindowKept := by
  simp only [LineRec.polling, PollingView.mk.injEq] at e
  obtain ⟨mode, state, tp, window, timer⟩ := e
  simp only [LineRec.WindowKept, LineRec.Polls, mode, state, tp, window, timer]
  exact ⟨fun busy => ⟨trivial, (h.1 busy).2⟩, h.2⟩

theorem WindowsWhilePolling.recover (h : WindowsWhilePolling s) : WindowsWhilePolling (recover k s) :=
  WindowsWhilePolling.noteEvent (h.modLine (·.activated rfl))

theorem WindowsWhilePolling.lapse (h : WindowsWhilePolling s) : WindowsWhilePolling (lapse s) := by
  have ended : WindowsWhilePolling (endClaim s) := h.of_lines rfl
  unfold Machine.lapse
  split
  · exact ended.noteEvent
  · exact ended

/-! ## Management commands -/

/-- A command's own part keeps every window on an ACTIVE POLLED line. -/
def Body.KeepsWindows (body : Body) : Prop :=
  ∀ (c : Cmd) (s : State), WindowsWhilePolling s → WindowsWhilePolling (body c s).1

/-- A command's own part that leaves every line alone. -/
theorem Body.keepsWindows_of_lines {body : Body} (lines : ∀ c s, (body c s).1.lines = s.lines) :
    Body.KeepsWindows body := fun c s h => h.of_lines (lines c s)

theorem Cmd.decide_keepsWindows {body : Body} {c : Cmd} (keeps : body.KeepsWindows) (h : WindowsWhilePolling s) :
    WindowsWhilePolling (c.decide body s).1 := by
  unfold Cmd.decide
  split
  · exact h
  · split
    · exact h
    · split
      · split <;> exact h
      · exact keeps c s h

theorem recordReply_lines (c : Cmd) (r : Reply) (s : State) : (recordReply c r s).lines = s.lines := by
  unfold recordReply
  split <;> rfl

theorem WindowsWhilePolling.complete {body : Body} {c : Cmd} (keeps : body.KeepsWindows)
    (h : WindowsWhilePolling s) : WindowsWhilePolling (complete body c s) := by
  have reply {u : State} {bytes : List Byte} (lines : WindowsWhilePolling u) :
      WindowsWhilePolling (Machine.restartIfDue (Machine.offerReply (buildReply c bytes u))) := by
    have built : WindowsWhilePolling (buildReply c bytes u) := lines.of_lines rfl
    exact built.offerReply.restartIfDue
  unfold Machine.complete
  split
  · exact reply (h.of_lines rfl)
  · exact reply ((Cmd.decide_keepsWindows keeps h).of_lines (recordReply_lines ..))

theorem WindowsWhilePolling.execCommand {code : Byte} {body : Body} (h : WindowsWhilePolling s)
    (keeps : body.KeepsWindows) (e : execCommand code body s = .next t) : WindowsWhilePolling t := by
  refine h.event e fun _ => ?_
  split
  · exact h.complete keeps
  · exact h

theorem WindowsWhilePolling.execNoticeCommand {code : Byte} {body : Body} (h : WindowsWhilePolling s)
    (keeps : body.KeepsWindows) (e : execNoticeCommand code body s = .next t) : WindowsWhilePolling t := by
  refine h.event e fun _ => ?_
  split
  · exact (h.complete keeps).emissionTest
  · exact h

theorem WindowsWhilePolling.execUnknownCommand (h : WindowsWhilePolling s)
    (e : execUnknownCommand s = .next t) : WindowsWhilePolling t := by
  refine h.event e fun _ => ?_
  split
  · exact h.complete fun _ _ h => h
  · exact h

/-! ### Commands that leave every line alone -/

theorem lineReadBody_lines (c : Cmd) (s : State) : (lineReadBody c s).1.lines = s.lines := by
  unfold lineReadBody
  split <;> rfl

theorem routeReadBody_lines (c : Cmd) (s : State) : (routeReadBody c s).1.lines = s.lines := by
  unfold routeReadBody
  dsimp only
  split
  · split <;> rfl
  · split <;> rfl
  · rfl

theorem pollReadBody_lines (c : Cmd) (s : State) : (pollReadBody c s).1.lines = s.lines := by
  unfold pollReadBody
  split
  · rfl
  · dsimp only; split <;> rfl

theorem claimBody_lines (c : Cmd) (s : State) : (claimBody c s).1.lines = s.lines := by
  unfold claimBody
  split
  · rfl
  · rfl
  · split <;> rfl

/-- ROUTE-WRITE refuses by one operand after another and then writes the shadow table (R72). -/
theorem routeWriteBody_lines (c : Cmd) (s : State) : (routeWriteBody c s).1.lines = s.lines := by
  unfold routeWriteBody
  dsimp only
  repeat (split; · rfl)
  rfl

theorem routeClearBody_lines (c : Cmd) (s : State) : (routeClearBody c s).1.lines = s.lines := by
  unfold routeClearBody
  dsimp only
  split
  · rfl
  · split <;> rfl

theorem routeCommitBody_lines (c : Cmd) (s : State) : (routeCommitBody c s).1.lines = s.lines := by
  unfold routeCommitBody
  dsimp only
  split
  · rfl
  · split <;> rfl

theorem withdrawIfEnded_lines (s : State) : (withdrawIfEnded s).lines = s.lines := by
  unfold withdrawIfEnded
  split <;> rfl

theorem noticeSetBody_lines (c : Cmd) (s : State) : (noticeSetBody c s).1.lines = s.lines := by
  unfold noticeSetBody
  split
  · rfl
  · exact withdrawIfEnded_lines _

theorem noticeAckBody_lines (c : Cmd) (s : State) : (noticeAckBody c s).1.lines = s.lines := by
  unfold noticeAckBody
  dsimp only
  split
  · rfl
  · split
    · rfl
    · exact withdrawIfEnded_lines _

/-! ### Commands on the pool and on lines -/

theorem relaySetBody_keepsWindows : Body.KeepsWindows relaySetBody := fun c s h => by
  have written (v : RelayValues) : WindowsWhilePolling (writeRelayValues v s) := h.of_lines rfl
  unfold relaySetBody
  dsimp only
  split
  · exact h
  · dsimp only; exact (written _).grantWaiters.evaluatePool

theorem countReadBody_keepsWindows : Body.KeepsWindows countReadBody := fun c s h => by
  unfold countReadBody
  dsimp only
  split
  · dsimp only; split; exacts [h.modLine_keeps rfl, h]
  · split
    · dsimp only; split; exacts [h.of_lines rfl, h]
    · exact h

theorem pollWriteBody_keepsWindows : Body.KeepsWindows pollWriteBody := fun c s h => by
  unfold pollWriteBody
  dsimp only
  repeat (split; · exact h)
  exact h.modLine_keeps rfl

theorem pollRemoveBody_keepsWindows : Body.KeepsWindows pollRemoveBody := fun c s h => by
  unfold pollRemoveBody
  dsimp only
  repeat (split; · exact h)
  exact h.modLine_keeps rfl

theorem lineResetBody_keepsWindows : Body.KeepsWindows lineResetBody := fun c s h => by
  unfold lineResetBody resetLine
  split
  · exact h
  · next k _ =>
    dsimp only
    split
    · exact h
    · refine windowsWhilePolling_flushLine fun j ne => ?_
      rw [State.line_modLine_ne s j k _ ne]
      exact h.kept j

/-! ### LINE-SET -/

theorem WindowsWhilePolling.releaseReservation (h : WindowsWhilePolling s) :
    WindowsWhilePolling (releaseReservation k s) := by
  unfold Machine.releaseReservation
  split
  · exact WindowsWhilePolling.releaseRef (h.modLine_keeps rfl)
  · exact h

theorem WindowsWhilePolling.lineUp (h : WindowsWhilePolling s) : WindowsWhilePolling (lineUp k s) :=
  WindowsWhilePolling.noteEvent (WindowsWhilePolling.requestReservation (h.modLine (·.activated rfl)))

/-- A line taken down is flushed in the same event, whatever its window was (R21, R118). -/
theorem windowsWhilePolling_lineDown {p : Bool} (others : ∀ j, j ≠ k → (s.line j).WindowKept) :
    WindowsWhilePolling (lineDown k p s) := by
  unfold lineDown
  refine WindowsWhilePolling.noteEvent (WindowsWhilePolling.releaseReservation
    (windowsWhilePolling_flushLine fun j ne => ?_))
  rw [State.line_modLine_ne _ j k _ ne]
  exact others j ne

/-- LINE-SET changes the mode of a line that is up only to OFF, which takes the line down (R152, R154). -/
theorem mode_of_lineSetRefusal {ops : List Byte} (accepted : lineSetRefusal s k ops = none)
    (up : (s.line k).state ≠ .off) (on : ((s.line k).config.changed ops).mode ≠ .off) :
    ((s.line k).config.changed ops).mode = (s.line k).config.mode := by
  unfold lineSetRefusal at accepted
  dsimp only at accepted
  split at accepted
  · cases accepted
  · split at accepted
    · cases accepted
    · split at accepted
      · cases accepted
      · next same => exact by_contra fun ne => same ⟨up, on, ne⟩

/-- A LINE-SET that is not refused: an OFF line has no window when its mode changes, a line that is up keeps its mode
or is taken down (R118, R154). -/
theorem WindowsWhilePolling.changeLineState (h : WindowsWhilePolling s) {ops : List Byte}
    (accepted : lineSetRefusal s k ops = none) : WindowsWhilePolling
      (changeLineState k (s.line k) (s.modLine k fun l => { l with config := l.config.changed ops })) := by
  have set (line : { s.line k with config := (s.line k).config.changed ops }.WindowKept) : WindowsWhilePolling
      (s.modLine k fun l => { l with config := l.config.changed ops }) := h.modLine fun _ => line
  unfold Machine.changeLineState
  rw [State.line_modLine_same]
  split
  · next off =>
    obtain ⟨window, timer, tp⟩ := (h.kept k).closed fun ⟨active, _⟩ => nomatch active.symm.trans off
    have configured := set (.of_closed window timer tp)
    split
    · exact configured
    · exact configured.lineUp
  · next up =>
    split
    · exact windowsWhilePolling_lineDown fun j ne => by rw [State.line_modLine_ne s j k _ ne]; exact h.kept j
    · next on =>
      have mode := mode_of_lineSetRefusal accepted up on
      exact set ((h.kept k).of_polling (by simp only [LineRec.polling, mode]))

theorem WindowsWhilePolling.turnAfterSet (h : WindowsWhilePolling s) {old : LineRec} :
    WindowsWhilePolling (turnAfterSet k old s) := by
  obtain ⟨e, turn, -⟩ | ⟨e, -⟩ := turnAfterSet_cases s k old
  · rw [e]; exact h.takeTurn (LineRec.polls_of_takesTurn turn)
  · rw [e]; exact h

theorem lineSetBody_keepsWindows : Body.KeepsWindows lineSetBody := fun c s h => by
  unfold lineSetBody
  split
  · exact h
  · split
    · exact h
    · next accepted => exact (h.changeLineState accepted).turnAfterSet

/-! ## Every command -/

theorem WindowsWhilePolling.exec {c : Instr} (h : WindowsWhilePolling s) (e : exec c s = .next t) :
    WindowsWhilePolling t := by
  cases c with
  | rstnAssert => cases e; exact (windowsWhilePolling_heldInReset s.straps).of_lines rfl
  | rstnRelease addr msel => cases e; exact (windowsWhilePolling_powerOn _).of_lines rfl
  | characterReceived k c => rw [exec_characterReceived] at e; exact h.event e fun _ => h.takeChar
  | gapTimerExpiry k => rw [exec_gapTimerExpiry] at e; exact h.event e fun _ => h.abandonFrame
  | quietTimerExpiry k => rw [exec_quietTimerExpiry] at e; exact h.event e fun _ => h.quietExpiry
  | receiveCompletion k b => exact h.event e fun _ => h.takeChar
  | reservationGrant => rw [exec_reservationGrant] at e; exact h.event e fun _ => h.grantOne
  | transmitSelection k => rw [exec_transmitSelection] at e; exact h.event e fun _ => h.selectDirect
  | polledTurn k =>
    rw [exec_polledTurn] at e
    exact h.event e fun turn => h.takeTurn (LineRec.polls_of_takesTurn turn)
  | transmitCompletion k =>
    rw [exec_transmitCompletion] at e
    refine h.event e fun sending => h.transmitDone ?_
    simp only [Bool.and_eq_true, decide_eq_true_eq] at sending
    exact sending.1
  | confirmTimerExpiry k =>
    have stopped : WindowsWhilePolling (s.modLine k fun l => { l with confirmTimer := none }) :=
      h.modLine_keeps rfl
    rw [exec_confirmTimerExpiry] at e
    exact h.event e fun _ => stopped.awaitExpiry
  | replyWindowExpiry k => rw [exec_replyWindowExpiry] at e; exact h.event e fun _ => h.windowExpiry
  | turnaroundEnd k => rw [exec_turnaroundEnd] at e; exact h.event e fun _ => h.modLine_keeps rfl
  | pollPauseExpiry k => rw [exec_pollPauseExpiry] at e; exact h.event e fun _ => h.modLine_keeps rfl
  | faultTimerExpiry k => rw [exec_faultTimerExpiry] at e; exact h.event e fun _ => h.enterFault
  | rxdReturnToMark k => rw [exec_rxdReturnToMark] at e; exact h.event e fun _ => h.returnToMark
  | rxdSpaceInFault k => rw [exec_rxdSpaceInFault] at e; exact h.event e fun _ => h.modLine_keeps rfl
  | recoveryTimerExpiry k => rw [exec_recoveryTimerExpiry] at e; exact h.event e fun _ => h.recover
  | agentTake => rw [exec_agentTake] at e; exact h.event e fun _ => h.takeCommand
  | unknownCommand => exact h.execUnknownCommand e
  | replyWaitRoom =>
    have room : WindowsWhilePolling (giveRoom s) := h.of_views (giveRoom_steady s).port (giveRoom_engine · s)
    rw [exec_replyWaitRoom] at e
    exact h.event e fun _ => room.restartIfDue
  | ident => exact h.execCommand (Body.keepsWindows_of_lines fun _ _ => rfl) e
  | claim => exact h.execCommand (Body.keepsWindows_of_lines claimBody_lines) e
  | release => exact h.execCommand (Body.keepsWindows_of_lines fun _ _ => rfl) e
  | routeRead => exact h.execCommand (Body.keepsWindows_of_lines routeReadBody_lines) e
  | routeWrite => exact h.execCommand (Body.keepsWindows_of_lines routeWriteBody_lines) e
  | routeClear => exact h.execCommand (Body.keepsWindows_of_lines routeClearBody_lines) e
  | routeCopy => exact h.execCommand (Body.keepsWindows_of_lines fun _ _ => rfl) e
  | routeCommit => exact h.execCommand (Body.keepsWindows_of_lines routeCommitBody_lines) e
  | lineRead => exact h.execCommand (Body.keepsWindows_of_lines lineReadBody_lines) e
  | lineSet => exact h.execCommand lineSetBody_keepsWindows e
  | lineReset => exact h.execCommand lineResetBody_keepsWindows e
  | pollRead => exact h.execCommand (Body.keepsWindows_of_lines pollReadBody_lines) e
  | pollWrite => exact h.execCommand pollWriteBody_keepsWindows e
  | pollRemove => exact h.execCommand pollRemoveBody_keepsWindows e
  | countRead => exact h.execCommand countReadBody_keepsWindows e
  | poolRead => exact h.execCommand (Body.keepsWindows_of_lines fun _ _ => rfl) e
  | relayRead => exact h.execCommand (Body.keepsWindows_of_lines fun _ _ => rfl) e
  | relaySet => exact h.execCommand relaySetBody_keepsWindows e
  | noticeRead => exact h.execCommand (Body.keepsWindows_of_lines fun _ _ => rfl) e
  | noticeSet => exact h.execNoticeCommand (Body.keepsWindows_of_lines noticeSetBody_lines) e
  | noticeAck => exact h.execNoticeCommand (Body.keepsWindows_of_lines noticeAckBody_lines) e
  | restart => exact h.execCommand (Body.keepsWindows_of_lines fun _ _ => rfl) e
  | warmRestart => rw [exec_warmRestart] at e; exact h.event e fun _ => h.warmRestart
  | leaseExpiry => rw [exec_leaseExpiry] at e; exact h.event e fun _ => h.lapse
  | noticeSlotServed => rw [exec_noticeSlotServed] at e; exact h.event e fun _ => h.serveNotice
  | noticeIntervalExpiry =>
    have idle : WindowsWhilePolling (s.modNotice fun n => { n with state := .idle, timer := none }) :=
      h.of_lines rfl
    rw [exec_noticeIntervalExpiry] at e
    exact h.event e fun _ => idle.emissionTest
  | startBit k mid => rw [exec_startBit] at e; exact h.event e fun _ => h.startChar

theorem WindowsWhilePolling.step (h : WindowsWhilePolling s) (e : step s = .next t) : WindowsWhilePolling t := by
  unfold Machine.step at e
  split at e
  · cases e; exact h
  · next c rest _ =>
    have taken : WindowsWhilePolling { s with pending := rest } := h.of_lines rfl
    exact taken.exec e

theorem State.line_powerOn_window (p : Straps) (k : Line) : ((State.powerOn p).line k).window = .closed := by
  rw [State.line_powerOn]
  split <;> rfl

theorem WindowsWhilePolling.warmRestart_window (h : WindowsWhilePolling s) (k : Line) :
    ((Machine.warmRestart s).line k).window = .closed :=
  (LineRec.window_of_port (warmRestart_port s k)).trans (h.kept k).restarted.2

/-- Settles O12: every operation keeps the window rule line by line; where a line stops being ACTIVE or POLLED it is
flushed in the same event, and the flush closes the window with no miss counted. -/
theorem windowsOnlyWhilePolling : Obligations.WindowsOnlyWhilePolling :=
  ⟨State.line_powerOn_window, fun _ k h => h.warmRestart_window k, fun _ _ h e => h.step e,
    fun s k polled => flushLine_line k polled s⟩

end Sys2Proof.Machine
end

section
/-! PROOFS. RELAY-SET: the values that would stand by the bytes of its change set, its tests in operand order, and
what is left in force when they pass. -/

namespace Sys2Proof.Machine

variable {s t : State} {c : Cmd} {ops : List Byte} {v w : RelayValues} {target : Target} {n : Nat}

/-! ## The values that would stand (R158, R180) -/

theorem names_relayChanges (ops : List Byte) (n : Nat) :
    names (relayChanges ops) n = (byteAt ops 0).getLsbD n := by
  have inByte : (byteAt ops 0).getLsbD n = true → n < 16 := fun h => by
    have := BitVec.lt_of_getLsbD h
    omega
  simpa [names, relayChanges] using inByte

/-- A RELAY-SET names a default action by its code, or leaves the one that stands (Table 12-3). -/
theorem RelayValues.changed_defaultAction
    (named : (byteAt ops 0).getLsbD 1 = true →
      target = .discard ∧ byteAt ops 3 = 8#8 ∨ ∃ k : Line, target = .line k ∧ (byteAt ops 3).toNat = k.val)
    (unnamed : (byteAt ops 0).getLsbD 1 = false → target = v.defaultAction) :
    (v.changed ops).defaultAction = target := by
  simp only [RelayValues.changed, names_relayChanges]
  split
  next h => rw [Target.ofCode?_of_code (named h), Option.getD_some]
  next h => exact (unnamed (Bool.eq_false_of_not_eq_true h)).symm

/-- The values that would stand, each by its bit of the change set, once the default action is known. -/
theorem RelayValues.changed_eq (action : (v.changed ops).defaultAction = target) :
    v.changed ops =
      { relayAddr := if (byteAt ops 0).getLsbD 0 then word16 (byteAt ops 1) (byteAt ops 2) else v.relayAddr
        defaultAction := target
        broadcastSet := if (byteAt ops 0).getLsbD 2 then byteAt ops 4 else v.broadcastSet
        reserve := if (byteAt ops 0).getLsbD 3 then (byteAt ops 5).toNat else v.reserve
        lowMark := if (byteAt ops 0).getLsbD 4 then (byteAt ops 6).toNat else v.lowMark
        highMark := if (byteAt ops 0).getLsbD 5 then (byteAt ops 7).toNat else v.highMark
        lease := if (byteAt ops 0).getLsbD 6 then (byteAt ops 8).toNat else v.lease } := by
  subst action
  simp only [RelayValues.changed, names_relayChanges, wordAt]

/-! ## The tests in operand order (R158) -/

theorem Target.ofCode?_eq_none_iff {b : Byte} : Target.ofCode? b = none ↔ ¬ b.toNat ≤ 8 := by
  refine ⟨fun none le => ?_, fun gt => Target.ofCode?_of_gt (not_le.mp gt)⟩
  obtain ⟨target, code⟩ := Target.ofCode?_of_le le
  simp [none] at code

/-- Operand 2: a named relay address is neither 0000h nor FFFFh. -/
abbrev RelayValues.AddressOk (v : RelayValues) (ops : List Byte) : Prop :=
  (byteAt ops 0).getLsbD 0 = true → v.relayAddr ≠ 0#16 ∧ v.relayAddr ≠ 0xFFFF#16

/-- Operand 3: the code of a named default action names a target. -/
abbrev RelayActionOk (ops : List Byte) : Prop := (byteAt ops 0).getLsbD 1 = true → (byteAt ops 3).toNat ≤ 8

/-- Operand 5: the reserve lies between 1 and 8. -/
abbrev RelayValues.ReserveOk (v : RelayValues) : Prop := 1 ≤ v.reserve ∧ v.reserve ≤ 8

/-- Operand 6: the low water mark lies above the reserve and is at most 64. -/
abbrev RelayValues.LowMarkOk (v : RelayValues) : Prop := v.reserve + 1 ≤ v.lowMark ∧ v.lowMark ≤ 64

/-- Operand 7: the high water mark lies above the low one and is at most 96. -/
abbrev RelayValues.HighMarkOk (v : RelayValues) : Prop := v.lowMark < v.highMark ∧ v.highMark ≤ 96

/-- Operand 8: a named lease is at least 5 s; as a byte it is at most 255 s. -/
abbrev RelayValues.LeaseOk (v : RelayValues) (ops : List Byte) : Prop :=
  (byteAt ops 0).getLsbD 6 = true → 5 ≤ v.lease

theorem RelayValues.changed_lease_le (v : RelayValues) (named : (byteAt ops 0).getLsbD 6 = true) :
    (v.changed ops).lease ≤ 255 := by
  simp only [RelayValues.changed, names_relayChanges, named, if_true]
  exact Nat.le_of_lt_succ (byteAt ops 8).isLt

/-- The first operand that fails, for the values `w` that would stand. -/
theorem relaySetFailure_changed (values : v.changed ops = w) :
    relaySetFailure ops (v.changed ops) =
      if ¬ w.AddressOk ops then some 2
      else if ¬ RelayActionOk ops then some 3
      else if ¬ w.ReserveOk then some 5
      else if ¬ w.LowMarkOk then some 6
      else if ¬ w.HighMarkOk then some 7
      else if ¬ w.LeaseOk ops then some 8
      else none := by
  have address : (byteAt ops 0).getLsbD 0 = true ∧ (w.relayAddr = 0#16 ∨ w.relayAddr = 0xFFFF#16) ↔
      ¬ w.AddressOk ops := by
    rw [Classical.not_imp, not_and_or, not_ne_iff, not_ne_iff]
  have action : (byteAt ops 0).getLsbD 1 = true ∧ Target.ofCode? (byteAt ops 3) = none ↔ ¬ RelayActionOk ops := by
    rw [Classical.not_imp, Target.ofCode?_eq_none_iff]
  have lease : (byteAt ops 0).getLsbD 6 = true ∧ ¬ (5 ≤ w.lease ∧ w.lease ≤ 255) ↔ ¬ w.LeaseOk ops := by
    rw [Classical.not_imp]
    exact and_congr_right fun named => by rw [and_iff_left (values ▸ v.changed_lease_le named)]
  rw [values]
  simp only [relaySetFailure, names_relayChanges, address, action, lease]

/-! ## The own part (R159) -/

theorem relaySetBody_of_failure (fails : relaySetFailure c.ops (s.relayValues.changed c.ops) = some n) :
    relaySetBody c s = (s, Reply.operand n) := by
  simp only [relaySetBody, fails]

theorem Steady.relayAddr (h : Steady s t) : t.route.relayAddr = s.route.relayAddr :=
  congrArg Globals.relayAddr h.globals

/-- The pool's grants and evaluation leave the relay address, so the reply carries the one just written. -/
theorem relaySetBody_of_passes (passes : relaySetFailure c.ops (s.relayValues.changed c.ops) = none)
    (values : s.relayValues.changed c.ops = v) :
    relaySetBody c s =
      (evaluatePool (grantWaiters (writeRelayValues v s)), Reply.ok (wordBytes v.relayAddr)) := by
  have address : (evaluatePool (grantWaiters (writeRelayValues v s))).route.relayAddr = v.relayAddr := by
    rw [(evaluatePool_steady _).relayAddr, (grantWaiters_steady _).relayAddr]
    rfl
  rw [values] at passes
  simp only [relaySetBody, values, passes, address]

/-- Settles O57: the model's chain of tests is that of the statement, each value that would stand being given by its
bit of the change set; past the last test the values are written and the reply carries the address among them. -/
theorem relaySetTestsThenWrites : Obligations.RelaySetTestsThenWrites := by
  intro s c target ready code o named addr bcast reserve low high lease ok2 ok3 ok5 ok6 ok7 ok8 refused
  have refuse {n : Nat} (fails : relaySetFailure c.ops (s.relayValues.changed c.ops) = some n) :
      refused (numByte n) :=
    execCommand_refused ready code (relaySetBody_of_failure fails) nofun
  have tests := relaySetFailure_changed (RelayValues.changed_eq (v := s.relayValues) (ops := c.ops) rfl)
  have past2 (h2 : ok2) := tests.trans (if_neg (not_not.mpr h2))
  have past3 (h2 : ok2) (h3 : ok3) := (past2 h2).trans (if_neg (not_not.mpr h3))
  have past5 (h2 : ok2) (h3 : ok3) (h5 : ok5) := (past3 h2 h3).trans (if_neg (not_not.mpr h5))
  have past6 (h2 : ok2) (h3 : ok3) (h5 : ok5) (h6 : ok6) := (past5 h2 h3 h5).trans (if_neg (not_not.mpr h6))
  have past7 (h2 : ok2) (h3 : ok3) (h5 : ok5) (h6 : ok6) (h7 : ok7) :=
    (past6 h2 h3 h5 h6).trans (if_neg (not_not.mpr h7))
  refine ⟨?address, ?action, ?reserve, ?lowMark, ?highMark, ?lease, ?written⟩
  case address => exact fun h2 => refuse (tests.trans (if_pos h2))
  case action => exact fun h2 h3 => refuse ((past2 h2).trans (if_pos h3))
  case reserve => exact fun h2 h3 h5 => refuse ((past3 h2 h3).trans (if_pos h5))
  case lowMark => exact fun h2 h3 h5 h6 => refuse ((past5 h2 h3 h5).trans (if_pos h6))
  case highMark => exact fun h2 h3 h5 h6 h7 => refuse ((past6 h2 h3 h5 h6).trans (if_pos h7))
  case lease => exact fun h2 h3 h5 h6 h7 h8 => refuse ((past7 h2 h3 h5 h6 h7).trans (if_pos h8))
  case written =>
    intro h2 h3 h5 h6 h7 h8 isNamed unnamed
    have values := RelayValues.changed_eq (v := s.relayValues) (RelayValues.changed_defaultAction isNamed unnamed)
    have passes := (past7 h2 h3 h5 h6 h7).trans (if_neg (not_not.mpr h8))
    have body := relaySetBody_of_passes passes values
    refine execCommand_ok ready code body rfl ?_
    rw [evaluatePool_agent, grantWaiters_agent]
    exact ready.running

end Sys2Proof.Machine
end

section
/-! PROOFS. Events of the notice unit: the record an event leaves, and the emission test, which leaves every record
but that of COUNTER-FULL as it is. -/

namespace Sys2Proof.Machine

variable {s t : State} {i : SlotIx} {p : NoticeKind}

/-! ## The record of an event (R164) -/

/-- An event's count in R164's words: at 255 it stays there. -/
theorem count_saturates (c : BitVec 8) :
    (if c = 0xFF#8 then c else c + 1#8) = if c = 0xFF#8 then 0xFF#8 else c + 1#8 :=
  ite_congr rfl id fun _ => rfl

theorem recordEvent_eq (q : NoticeKind) (l : Option Line) (v : Option Addr) (s : State) :
    recordEvent q l v s =
      s.modNotice fun n =>
        { n with
          records := n.records.set q.code
            { pending := true
              count := if (n.records.get q.code).count = 0xFF#8 then 0xFF#8
                else (n.records.get q.code).count + 1#8
              line := l, value := v } } := by
  simp only [recordEvent, count_saturates]

/-! ## What an emission leaves to the notice unit (R166, R168) -/

@[simp] theorem dropRef_notice (i : SlotIx) (s : State) : (dropRef i s).notice = s.notice := by
  unfold dropRef
  dsimp only
  split <;> rfl

@[simp] theorem offerUrgent_notice (j : Line) (i : SlotIx) (s : State) : (offerUrgent j i s).1.notice = s.notice := by
  unfold offerUrgent
  dsimp only
  split <;> rfl

theorem allocate_notice {a : Option Line} (e : allocate a s = some (i, t)) : t.notice = s.notice := by
  unfold allocate at e
  split at e <;> cases e
  rfl

/-- The one event that an emission can record is COUNTER-FULL, of the DISCARDED or the UNROUTED counter. -/
theorem countRelayInEmission_record (other : p ≠ .counterFull) (c : RelayCounter) (s : State) :
    (countRelayInEmission c s).notice.records.get p.code = s.notice.records.get p.code := by
  unfold countRelayInEmission
  dsimp only
  split
  · rw [record_recordEvent, if_neg other]
    rfl
  · rfl

theorem routeNotice_record (other : p ≠ .counterFull) (i : SlotIx) (s : State) :
    (routeNotice i s).notice.records.get p.code = s.notice.records.get p.code := by
  unfold routeNotice
  split
  · dsimp only
    split
    · rw [offerUrgent_notice, State.modFrame_notice]
    · rw [dropRef_notice, offerUrgent_notice, State.modFrame_notice]
  · rw [dropRef_notice, countRelayInEmission_record other]
  · rw [dropRef_notice, countRelayInEmission_record other]

theorem emitNotice_record (other : p ≠ .counterFull) (s : State) :
    (emitNotice s).notice.records.get p.code = s.notice.records.get p.code := by
  unfold emitNotice
  split
  · rfl
  · next i t taken =>
    rw [← allocate_notice taken]
    exact routeNotice_record other i _

theorem emissionTest_record (other : p ≠ .counterFull) (s : State) :
    (emissionTest s).notice.records.get p.code = s.notice.records.get p.code := by
  unfold emissionTest
  split
  · split
    · rfl
    · split
      · rfl
      · exact emitNotice_record other s
  · rfl

/-- Settles O34: the event's record by `recordEvent_eq`, every other by what an emission leaves of the records. -/
theorem eventIsRecorded : Obligations.EventIsRecorded :=
  fun q l v s => ⟨congrArg emissionTest (recordEvent_eq q l v s), fun _ other => emissionTest_record other _⟩

end Sys2Proof.Machine
end

section
/-! PROOFS. The bits of the check, the bytes of a frame and the characters of a line. -/

namespace Sys2Proof.Machine

/-! ## The check -/

/-- The register that a run of data bits, the first at its top, takes to 0. -/
def registerOf : List Bool → BitVec 16
  | [] => 0#16
  | d :: ds => BitVec.cons d ((registerOf ds).extractLsb' 1 15)

theorem getLsbD_registerOf (ds : List Bool) {n : Nat} (h : n < 16) :
    (registerOf ds).getLsbD n = ds.getD (15 - n) false := by
  induction ds generalizing n with
  | nil => simp [registerOf]
  | cons d ds ih =>
    by_cases top : n = 15
    · rw [registerOf, BitVec.getLsbD_cons, if_pos top, top]
      rfl
    · have below : n < 15 := by omega
      rw [registerOf, BitVec.getLsbD_cons, if_neg top, BitVec.getLsbD_extractLsb', ih (by omega),
        show 15 - n = (15 - (1 + n)) + 1 by omega]
      simp [below]

/-- A register with a 0 at its bottom is reached by a bit only from the register that has the bit at its top:
1021h has a 1 at its bottom. -/
theorem crcBit_eq_iff {r x : BitVec 16} {b : Bool} (h : x.getLsbD 0 = false) :
    crcBit r b = x ↔ r = BitVec.cons b (x.extractLsb' 1 15) := by
  by_cases top : r.getLsbD 15 = b
  · have shifted : crcBit r b = r <<< 1 := by rw [crcBit, top, bne_self_eq_false]; rfl
    rw [shifted]
    constructor
    · rintro rfl
      refine BitVec.eq_of_getLsbD_eq fun n hn => ?_
      rw [BitVec.getLsbD_cons]
      split
      · next e => rw [e, top]
      · next e =>
        rw [BitVec.getLsbD_extractLsb', BitVec.getLsbD_shiftLeft]
        simp [show n < 15 by omega, show 1 + n < 16 by omega]
    · intro e
      refine BitVec.eq_of_getLsbD_eq fun n hn => ?_
      rcases n with _ | n
      · simpa using h.symm
      · rw [e]
        have below : n < 15 := by omega
        rw [BitVec.getLsbD_shiftLeft, Nat.add_sub_cancel, BitVec.getLsbD_cons, if_neg below.ne,
          BitVec.getLsbD_extractLsb', Nat.add_comm 1 n]
        simp [below, hn]
  · constructor
    · intro e
      have bottom : (crcBit r b).getLsbD 0 = true := by
        have differs : (r.getLsbD 15 != b) = true := bne_iff_ne.mpr top
        rw [crcBit, differs]
        simp
      rw [e, h] at bottom
      cases bottom
    · intro e
      exact absurd (by rw [e, BitVec.getLsbD_cons, if_pos rfl]) top

theorem foldl_crcBit_eq_zero_iff (ds : List Bool) (r : BitVec 16) (h : ds.length ≤ 16) :
    ds.foldl crcBit r = 0#16 ↔ r = registerOf ds := by
  induction ds generalizing r with
  | nil => rfl
  | cons d ds ih =>
    have short : ds.length ≤ 15 := Nat.le_of_succ_le_succ h
    have bottom : (registerOf ds).getLsbD 0 = false := by
      rw [getLsbD_registerOf ds (by omega)]
      simp [List.getElem?_eq_none short]
    rw [List.foldl_cons, ih _ (by omega), crcBit_eq_iff bottom, registerOf]

/-- The bits of a byte, most significant first. -/
def bitsOf (b : Byte) : List Bool := [7, 6, 5, 4, 3, 2, 1, 0].map b.getLsbD

theorem crcByte_eq_foldl (r : BitVec 16) (b : Byte) : crcByte r b = (bitsOf b).foldl crcBit r := rfl

theorem registerOf_bits (hi lo : Byte) : registerOf (bitsOf hi ++ bitsOf lo) = word16 hi lo := by
  refine BitVec.eq_of_getLsbD_eq fun n hn => ?_
  rw [getLsbD_registerOf _ hn, word16, BitVec.getLsbD_append]
  interval_cases n <;> simp [bitsOf]

theorem crcRun_append (r : BitVec 16) (bs cs : List Byte) :
    crcRun r (bs ++ cs) = crcRun (crcRun r bs) cs := List.foldl_append

theorem crcRun_check_bytes (r : BitVec 16) (hi lo : Byte) :
    crcRun r [hi, lo] = 0#16 ↔ word16 hi lo = r := by
  have bits : crcRun r [hi, lo] = (bitsOf hi ++ bitsOf lo).foldl crcBit r := by
    simp [crcRun, crcByte_eq_foldl, List.foldl_append]
  rw [bits, foldl_crcBit_eq_zero_iff _ _ (by simp [bitsOf]), registerOf_bits, eq_comm]

theorem crcRun_with_check (bs : List Byte) (hi lo : Byte) :
    crcRun 0xFFFF#16 (bs ++ [hi, lo]) = 0#16 ↔ word16 hi lo = crcOf bs := by
  rw [crcRun_append, crcRun_check_bytes]
  rfl

theorem crcBit_eq (r : BitVec 16) (b : Bool) :
    crcBit r b = if r.msb = b then r <<< 1 else (r <<< 1) ^^^ 0x1021#16 := by
  rw [crcBit, show r.getLsbD 15 = r.msb from (BitVec.msb_eq_getLsbD_last r).symm]
  by_cases h : r.msb = b <;> simp [h]

/-- Settles O18: the residue is that of `crcRun_with_check`, which takes the sixteen bits of the check bytes
from the last one back. -/
theorem checkFindsCheckBytes : Obligations.CheckFindsCheckBytes :=
  ⟨crcBit_eq, fun _ _ => rfl, crcRun_with_check, fun _ => rfl, rfl, by simp [crcOf, crcRun, crcByte, crcBit]⟩

/-! ## The bytes of a frame -/

theorem word16_bytes (w : BitVec 16) : word16 (hiByte w) (loByte w) = w := by
  refine BitVec.eq_of_getLsbD_eq fun n hn => ?_
  simp only [word16, hiByte, loByte, BitVec.getLsbD_append, BitVec.getLsbD_extractLsb']
  split
  · next h => simp [h]
  · next h =>
    rw [Nat.add_sub_cancel' (Nat.not_lt.mp h), decide_eq_true (show n - 8 < 8 by omega), Bool.true_and]

@[simp] theorem hiByte_word16 (hi lo : Byte) : hiByte (word16 hi lo) = hi := by
  refine BitVec.eq_of_getLsbD_eq fun n hn => ?_
  rw [hiByte, BitVec.getLsbD_extractLsb', word16, BitVec.getLsbD_append, if_neg (by omega), Nat.add_sub_cancel_left]
  simp [hn]

@[simp] theorem loByte_word16 (hi lo : Byte) : loByte (word16 hi lo) = lo := by
  refine BitVec.eq_of_getLsbD_eq fun n hn => ?_
  rw [loByte, BitVec.getLsbD_extractLsb', word16, Nat.zero_add, BitVec.getLsbD_append, if_pos hn]
  simp [hn]

theorem Kind.ofCode_code (k : Kind) : Kind.ofCode k.code = k := by cases k <;> rfl

theorem control_controlByte (k : Kind) (confirm : Bool) (seq : BitVec 4) :
    controlKind (controlByte k confirm seq) = k ∧ controlConfirm (controlByte k confirm seq) = confirm ∧
      controlSeq (controlByte k confirm seq) = seq := by
  have code : (controlByte k confirm seq).extractLsb' 5 3 = k.code := by
    refine BitVec.eq_of_getLsbD_eq fun n hn => ?_
    rw [BitVec.getLsbD_extractLsb', controlByte, BitVec.getLsbD_append, if_neg (by omega)]
    rw [BitVec.getLsbD_append, if_neg (by omega), show 5 + n - 4 - 1 = n by omega]
    simp [hn]
  refine ⟨by rw [controlKind, code, Kind.ofCode_code], ?_, ?_⟩
  · rw [controlConfirm, controlByte, BitVec.getLsbD_append, if_neg (by omega), BitVec.getLsbD_append,
      if_pos (by omega)]
    simp
  · refine BitVec.eq_of_getLsbD_eq fun n hn => ?_
    rw [controlSeq, BitVec.getLsbD_extractLsb', Nat.zero_add, controlByte, BitVec.getLsbD_append, if_pos hn]
    simp [hn]

theorem toNat_numByte {n : Nat} (h : n < 256) : (numByte n).toNat = n := by simp [numByte, h]

/-! ## The receiver over a whole frame -/

theorem feed_of_more {rx rx' : Receiver} {f f' : Frame} {b : Byte} (bs : List Byte)
    (h : rx.takeByte f b = (rx', f', .more)) : rx.feed f (b :: bs) = rx'.feed f' bs := by
  rw [Receiver.feed, h]

/-- The six header bytes are stored whole, whatever the slot held. -/
theorem feed_header {rx : Receiver} (f old : Frame) (bs : List Byte) (head : rx.phase = .head 0)
    (len : f.len ≤ 56) :
    rx.feed old (f.headerBytes ++ bs) =
      Receiver.feed { rx with
          phase := if f.len = 0 then .trail 0 else .body 0, crc := crcRun rx.crc f.headerBytes }
        { f with payload := [] } bs := by
  obtain ⟨kind, confirm, seq⟩ := control_controlByte f.kind f.confirm f.seq
  have toNat : (numByte f.len).toNat = f.len := toNat_numByte (by omega)
  have short : ¬ 56 < f.len := by omega
  simp [Frame.headerBytes, Receiver.feed, Receiver.takeByte, storeHeader, head, toNat, short, word16_bytes,
    kind, confirm, seq, crcRun]

/-- Payload bytes are appended until there are as many as the length says. -/
theorem feed_payload {rx : Receiver} {f : Frame} (n : Nat) (bs tail : List Byte) (body : rx.phase = .body n)
    (some : bs ≠ []) (len : n + bs.length = f.len) :
    rx.feed f (bs ++ tail) = Receiver.feed { rx with phase := .trail 0, crc := crcRun rx.crc bs }
      { f with payload := f.payload ++ bs } tail := by
  induction bs generalizing rx f n with
  | nil => exact absurd rfl some
  | cons b bs ih =>
    have stored : rx.takeByte f b =
        ({ rx with phase := if n + 1 < f.len then .body (n + 1) else .trail 0, crc := crcByte rx.crc b },
          { f with payload := f.payload ++ [b] }, .more) := by simp [Receiver.takeByte, body]
    rw [List.cons_append, feed_of_more _ stored]
    cases bs with
    | nil =>
      have last : ¬ n + 1 < f.len := by simp at len; omega
      simp [last, crcRun]
    | cons c cs =>
      have more : n + 1 < f.len := by simp at len; omega
      rw [ih (n + 1) (by simp [more]) (by simp) (by simp at len ⊢; omega)]
      simp [crcRun]

/-- The two check bytes end the frame; its check is good when they bring the register to 0. -/
theorem feed_check {rx : Receiver} {f : Frame} (hi lo : Byte) (trail : rx.phase = .trail 0) :
    (rx.feed f [hi, lo]).2 = (f, .complete (decide (crcRun rx.crc [hi, lo] = 0#16))) := by
  simp [Receiver.feed, Receiver.takeByte, trail, crcRun]
  rfl

theorem feed_frame {rx : Receiver} (f old : Frame) (hi lo : Byte) (whole : f.whole)
    (head : rx.phase = .head 0) (crc : rx.crc = 0xFFFF#16) :
    (rx.feed old (f.headerBytes ++ f.payload ++ [hi, lo])).2 =
      (f, .complete (decide (word16 hi lo = f.check))) := by
  obtain ⟨len, payload⟩ := whole
  have check : crcRun (crcRun (crcRun 0xFFFF#16 f.headerBytes) f.payload) [hi, lo] = 0#16 ↔
      word16 hi lo = f.check := by
    rw [← crcRun_append 0xFFFF#16, ← crcRun_append 0xFFFF#16, crcRun_with_check]
    rfl
  rw [List.append_assoc, feed_header f old _ head len, crc]
  by_cases empty : f.len = 0
  · have none : f.payload = [] := List.length_eq_zero_iff.mp (payload.trans empty)
    have same : { f with payload := [] } = f := by rw [← none]
    rw [none] at check
    rw [none, List.nil_append, feed_check _ _ (by simp [empty]), same]
    exact congrArg (fun b => (f, ByteResult.complete b)) (decide_eq_decide.mpr check)
  · have some : f.payload ≠ [] := fun none => empty (by rw [← payload, none]; rfl)
    rw [feed_payload 0 f.payload [hi, lo] (by simp [empty]) some (by simpa using payload),
      feed_check _ _ rfl, List.nil_append, decide_eq_decide.mpr check]

theorem length_wireBytes (f : Frame) (whole : f.whole) : f.wireBytes.length = 9 + f.len := by
  obtain ⟨-, payload⟩ := whole
  simp [Frame.wireBytes, Frame.coveredBytes, Frame.headerBytes, wordBytes, payload]
  omega

/-- Settles O17: header, payload and check bytes, each by the receiver's own rule. -/
theorem sentFrameIsRebuilt : Obligations.SentFrameIsRebuilt := fun f old _ hi lo whole head crc =>
  ⟨feed_frame f old hi lo whole head crc, by simp [Frame.wireBytes, Frame.coveredBytes, wordBytes],
    length_wireBytes f whole⟩

/-! ## Characters -/

theorem length_charLevels (c : LineConfig) (b : Byte) : (charLevels c b).length = c.charBits := by
  cases e : c.parity <;> simp [charLevels, LineConfig.charBits, parityBit, e] <;> omega

theorem charLevels_getElem?_data (c : LineConfig) (b : Byte) {n : Nat} (h : n < 8) :
    (charLevels c b)[n + 1]? = some (if b.getLsbD n then .mark else .space) := by
  interval_cases n <;> simp [charLevels, levelOfBit]

theorem charLevels_getElem?_parity (c : LineConfig) (b : Byte) (p : Bool)
    (h : parityBit c.parity b = some p) :
    (charLevels c b)[9]? = some (if p then .mark else .space) := by
  simp [charLevels, h, levelOfBit]

theorem charLevels_getElem?_stop (c : LineConfig) (b : Byte) {n : Nat}
    (lower : 9 + (if c.parity = .none then 0 else 1) ≤ n) (upper : n < c.charBits) :
    (charLevels c b)[n]? = some .mark := by
  have front : (Level.space :: ([0, 1, 2, 3, 4, 5, 6, 7].map (fun i => levelOfBit (b.getLsbD i)) ++
      (parityBit c.parity b).toList.map levelOfBit)).length = 9 + if c.parity = .none then 0 else 1 := by
    cases e : c.parity <;> simp [parityBit]
  unfold LineConfig.charBits at upper
  rw [charLevels, ← List.cons_append, List.getElem?_append_right (by rw [front]; exact lower), front,
    List.getElem?_replicate, if_pos (by omega)]

theorem onesCount_parity (b : Byte) :
    (onesCount b + (onesCount b % 2 == 1).toNat) % 2 = 0 ∧ (onesCount b + (onesCount b % 2 == 0).toNat) % 2 = 1 := by
  rcases Nat.mod_two_eq_zero_or_one (onesCount b) with h | h <;> simp [h, Nat.add_mod]

theorem length_flatMap_const {α β : Type} (f : α → List β) (n : Nat) (h : ∀ a, (f a).length = n) (l : List α) :
    (l.flatMap f).length = l.length * n := by
  simp [List.length_flatMap, h]

theorem length_txLevels {s : State} {k : Line} {f : Frame} (up : s.rstnLow = false) (tx : s.txFrame k = some f)
    (whole : f.whole) : (s.txLevels k).length = (9 + f.len) * (s.line k).config.charBits := by
  simp only [State.txLevels, up, tx, Bool.false_eq_true, if_false]
  rw [length_flatMap_const _ _ (length_charLevels _), length_wireBytes f whole]

theorem classify_space {p : Parity} {c : RxChar} (h : c.stop = .space) :
    classify p c = if c.data = 0#8 then .brk else .framing := by simp [classify, h]

theorem classify_mark {p : Parity} {c : RxChar} (h : c.stop = .mark) :
    classify p c =
      match parityBit p c.data with
      | none => .good
      | some b => if c.parity = b then .good else .parity :=
  if_neg (by simp [h])

theorem classify_classes (p : Parity) (c : RxChar) :
    (classify p c = .brk ↔ c.stop = .space ∧ c.data = 0#8) ∧
    (classify p c = .framing ↔ c.stop = .space ∧ c.data ≠ 0#8) ∧
    (classify p c = .parity ↔ c.stop = .mark ∧ ∃ b, parityBit p c.data = some b ∧ c.parity ≠ b) ∧
    (classify p c = .good ↔ c.stop = .mark ∧ ∀ b, parityBit p c.data = some b → c.parity = b) := by
  cases stop : c.stop with
  | space => by_cases zero : c.data = 0#8 <;> simp [classify_space stop, zero]
  | mark =>
    cases carried : parityBit p c.data with
    | none => simp [classify_mark stop, carried]
    | some b => by_cases agrees : c.parity = b <;> simp [classify_mark stop, carried, agrees]

/-- Settles O19: the levels place by place, the lengths, and the classes by the stop bit. -/
theorem charactersOnTheLine : Obligations.CharactersOnTheLine :=
  ⟨length_charLevels,
    fun c => ⟨rfl, fun stops => by unfold LineConfig.charBits; split <;> omega⟩,
    charLevels_getElem?_parity, fun _ _ => rfl, fun c b _ h => charLevels_getElem?_data c b h,
    fun c b _ lower upper => charLevels_getElem?_stop c b lower upper, fun _ => rfl,
    fun b => ⟨_, rfl, (onesCount_parity b).1⟩, fun b => ⟨_, rfl, (onesCount_parity b).2⟩,
    fun _ _ _ up tx whole => length_txLevels up tx whole, classify_classes⟩

end Sys2Proof.Machine
end

section
/-! PROOFS. The receiver of a line port: start bits, characters, the ends of frames and of SKIP. -/

namespace Sys2Proof.Machine

variable {s : State} {k : Line} {c : RxChar} {i : SlotIx}

/-! ## What each character does to the state -/

theorem takeChar_ignored (hunt : (s.line k).rx.phase = .hunt) (whole : classify (s.line k).config.parity c ≠ .brk)
    (other : ¬ (classify (s.line k).config.parity c = .good ∧ c.data = 0xA7#8)) :
    takeChar k c s = s.setLine k ((s.line k).afterChar c.stop) := by
  have outside : ¬ (s.line k).rx.phase.inFrame = true := by simp [hunt, RxPhase.inFrame]
  cases class_ : classify (s.line k).config.parity c with
  | brk => exact absurd class_ whole
  | framing => rw [takeChar_error (.inl class_), if_neg outside]
  | parity => rw [takeChar_error (.inr class_), if_neg outside]
  | good => rw [takeChar_good class_, if_neg outside, if_neg fun lead => other ⟨class_, lead.2⟩]

theorem takeChar_lead (hunt : (s.line k).rx.phase = .hunt)
    (lead : classify (s.line k).config.parity c = .good ∧ c.data = 0xA7#8) :
    takeChar k c s = takeLead k (s.setLine k ((s.line k).afterChar c.stop)) := by
  obtain ⟨good, data⟩ := lead
  rw [takeChar_good good, if_neg (by simp [hunt, RxPhase.inFrame]), if_pos ⟨hunt, data⟩]

theorem takeChar_inFrame (inside : (s.line k).rx.phase.inFrame = true)
    (good : classify (s.line k).config.parity c = .good) :
    takeChar k c s = storeByte k c.data (s.setLine k ((s.line k).afterChar c.stop)) := by
  rw [takeChar_good good, if_pos inside]

theorem takeChar_skip (skip : (s.line k).rx.phase = .skip) (whole : classify (s.line k).config.parity c ≠ .brk) :
    takeChar k c s = s.setLine k ((s.line k).afterChar c.stop) := by
  have outside : ¬ (s.line k).rx.phase.inFrame = true := by simp [skip, RxPhase.inFrame]
  cases class_ : classify (s.line k).config.parity c with
  | brk => exact absurd class_ whole
  | framing => rw [takeChar_error (.inl class_), if_neg outside]
  | parity => rw [takeChar_error (.inr class_), if_neg outside]
  | good => rw [takeChar_good class_, if_neg outside, if_neg fun lead => by simp [skip] at lead]

theorem takeLead_reserved {l : LineRec} (held : l.reservation ≠ none) :
    takeLead k (s.setLine k l) = s.setLine k
      { windowLead l with
        rx := { (windowLead l).rx with
                phase := .head 0, crc := 0xFFFF#16, gap := some l.config.gapLimit } } := by
  obtain ⟨i, e⟩ := Option.ne_none_iff_exists'.mp held
  cases w : l.window <;> simp [takeLead, windowLead, w, e]

theorem takeLead_unreserved {l : LineRec} (none : l.reservation = none) :
    takeLead k (s.setLine k l) = s.setLine k
      { windowLead l with
        rx := { (windowLead l).rx with phase := .skip, quiet := some l.config.gapLimit } } := by
  cases w : l.window <;> simp [takeLead, windowLead, w, none]

theorem abandonFrame_setLine (c : LineCounter) (l : LineRec) :
    abandonFrame k c (s.setLine k l) = damagedReply k (countLine k c (s.setLine k l.backInHunt)) := by
  rw [abandonFrame, toHunt, State.modLine_setLine]
  rfl

theorem abandonFrame_eq (c : LineCounter) :
    abandonFrame k c s = damagedReply k (countLine k c (s.setLine k (s.line k).backInHunt)) := rfl

/-- A byte that ends nothing is stored in the reservation's slot, and the gap timer starts again. -/
theorem storeByte_more {l : LineRec} {b : Byte} {rx : Receiver} {f : Frame → Frame} (held : l.reservation = some i)
    (stores : l.rx.takeByte (s.frame i) b = (rx, f (s.frame i), .more)) :
    storeByte k b (s.setLine k l) =
      (s.setLine k { l with rx := { rx with gap := some l.config.gapLimit } }).modFrame i f := by
  unfold storeByte
  split
  · next none => simp [held] at none
  · next m found =>
    obtain rfl : i = m := by simpa [held] using found
    rw [State.line_setLine_same, State.setLine_frame, stores]
    exact congrArg (State.modFrame · i f)
      (State.modLine_setLine s k l fun m => { m with rx := { rx with gap := some m.config.gapLimit } })

theorem storeByte_complete {l : LineRec} {b : Byte} (held : l.reservation = some i) (place : l.rx.phase = .trail 1) :
    storeByte k b (s.setLine k l) =
      receiveComplete k i (decide (crcByte l.rx.crc b = 0#16))
        (s.setLine k { l with rx := { l.rx with crc := crcByte l.rx.crc b, gap := some l.config.gapLimit } }) := by
  have ends : l.rx.takeByte (s.frame i) b =
      ({ l.rx with crc := crcByte l.rx.crc b }, s.frame i, .complete (decide (crcByte l.rx.crc b = 0#16))) := by
    simp [Receiver.takeByte, place]
  unfold storeByte
  split
  · next none => simp [held] at none
  · next m found =>
    obtain rfl : i = m := by simpa [held] using found
    rw [State.line_setLine_same, State.setLine_frame, ends]
    change receiveComplete k i _ (((s.setLine k l).modFrame i fun _ => s.frame i).modLine k _) = _
    rw [State.modFrame_self _ _ _ rfl, State.modLine_setLine]

theorem storeByte_tooLong {l : LineRec} {b : Byte} (held : l.reservation = some i) (place : l.rx.phase = .head 5)
    (long : 56 < b.toNat) :
    storeByte k b (s.setLine k l) = damagedReply k (countLine k .rxLength (s.setLine k l.backInHunt)) := by
  have fails : l.rx.takeByte (s.frame i) b = (l.rx, s.frame i, .lengthError) := by
    simp [Receiver.takeByte, place, long]
  unfold storeByte
  split
  · next none => simp [held] at none
  · next m found =>
    obtain rfl : i = m := by simpa [held] using found
    rw [State.line_setLine_same, State.setLine_frame, fails]
    change abandonFrame k .rxLength (((s.setLine k l).modFrame i fun _ => s.frame i).modLine k _) = _
    rw [State.modFrame_self _ _ _ rfl, State.modLine_setLine, abandonFrame_setLine]
    rfl

/-! ## Start bits and characters between frames -/

/-- Settles O21: a start bit's middle decides. -/
theorem startBitStopsTimers : Obligations.StartBitStopsTimers := fun s k up listens => by
  rw [exec_startBit, exec_startBit]
  exact ⟨fun out => event_follows up (by simp [listens, out]) rfl, event_impossible (.inr (by simp))⟩

/-- Settles O22: whether the character is the lead, and whether the line has a reservation. -/
theorem huntTakesOnlyTheLead : Obligations.HuntTakesOnlyTheLead := by
  intro s k c up listens hunt l lead led
  have ended : led = windowLead l := by
    cases w : l.window <;> simp [led, windowLead, w]
  rw [exec_characterReceived]
  refine ⟨fun other whole => event_follows up listens (takeChar_ignored hunt whole other), ?_, ?_⟩
  · intro isLead held
    exact event_follows up listens
      (by rw [takeChar_lead hunt isLead, takeLead_reserved (l := (s.line k).afterChar c.stop) held, ended])
  · intro isLead free
    exact event_follows up listens
      (by rw [takeChar_lead hunt isLead, takeLead_unreserved (l := (s.line k).afterChar c.stop) free, ended])

/-! ## Characters inside a frame -/

/-- Settles O23: each place of the frame stores the byte by `storeByte_more`. -/
theorem goodCharacterIsStored : Obligations.GoodCharacterIsStored := by
  intro s k c i up listens good held l stored answers
  have keeps (p : RxPhase) (f : Frame → Frame) (inside : (s.line k).rx.phase.inFrame = true)
      (stores : l.rx.takeByte (s.frame i) c.data =
        ({ l.rx with phase := p, crc := crcByte l.rx.crc c.data }, f (s.frame i), .more)) :
      answers (stored p f) := by
    simp only [answers, stored, exec_characterReceived]
    exact event_follows up listens (by rw [takeChar_inFrame inside good, storeByte_more (l := l) held stores])
  have phase : l.rx.phase = (s.line k).rx.phase := rfl
  have header (n : Nat) (h : (s.line k).rx.phase = .head n) (lt : n < 5) :
      answers (stored (.head (n + 1)) (storeHeader n c.data)) :=
    keeps _ _ (by simp [h, RxPhase.inFrame]) (by simp [Receiver.takeByte, phase, h, lt])
  refine ⟨fun h => header 0 h (by omega), fun h => header 1 h (by omega), fun h => header 2 h (by omega),
    fun h => header 3 h (by omega), fun h => header 4 h (by omega), ?_, ?_, ?_, ?_⟩
  · intro h zero
    exact keeps _ _ (by simp [h, RxPhase.inFrame]) (by simp [Receiver.takeByte, phase, h, zero, storeHeader])
  · intro h pos le
    exact keeps _ _ (by simp [h, RxPhase.inFrame])
      (by simp [Receiver.takeByte, phase, h, pos.ne', show ¬ 56 < c.data.toNat by omega, storeHeader])
  · intro n h
    exact keeps _ _ (by simp [h, RxPhase.inFrame]) (by simp [Receiver.takeByte, phase, h])
  · intro h
    exact keeps _ _ (by simp [h, RxPhase.inFrame]) (by simp [Receiver.takeByte, phase, h])

/-- Settles O24: each error leads to `abandonFrame`. -/
theorem receiveErrorAbandonsFrame : Obligations.ReceiveErrorAbandonsFrame := by
  intro s k up
  refine ⟨fun c listens inside fails => ?_, fun c listens place held good long => ?_, fun active inside gap => ?_⟩
  · rw [exec_characterReceived]
    exact event_follows up listens (by rw [takeChar_error fails, if_pos inside, abandonFrame_setLine])
  · obtain ⟨i, held⟩ := Option.ne_none_iff_exists'.mp held
    rw [exec_characterReceived]
    exact event_follows up listens
      (by rw [takeChar_inFrame (by simp [place, RxPhase.inFrame]) good,
            storeByte_tooLong (l := (s.line k).afterChar c.stop) held place long])
  · rw [exec_gapTimerExpiry]
    exact event_follows up (by simp [active, inside, Option.isSome_iff_ne_none.mpr gap]) (abandonFrame_eq _)

/-! ## SKIP and breaks -/

/-- Settles O25: the quiet timer's expiry in and out of a break condition. -/
theorem skipEndsAtQuiet : Obligations.SkipEndsAtQuiet := by
  intro s k up skip
  rw [exec_quietTimerExpiry]
  have possible (active : (s.line k).state = .active) (quiet : (s.line k).rx.quiet ≠ none) :
      (decide ((s.line k).state = .active) && decide ((s.line k).rx.phase = .skip) &&
        (s.line k).rx.quiet.isSome) = true := by simp [active, skip, Option.isSome_iff_ne_none.mpr quiet]
  refine ⟨fun c listens whole => ?_, fun active quiet out => ?_, fun active quiet inside => ?_⟩
  · rw [exec_characterReceived]
    exact event_follows up listens (takeChar_skip skip whole)
  · exact event_follows up (possible active quiet) (by rw [quietExpiry, if_neg (by simp [out]), endSkip, abandonFrame_eq])
  · exact event_follows up (possible active quiet) (by rw [quietExpiry, if_pos inside]; rfl)

theorem counter_countLine (c : LineCounter) (j : Line) (d : LineCounter) (other : d ≠ .qRefused) :
    ((countLine k c s).line j).counter d = ((s.bumpLine k c).line j).counter d :=
  (countLine_steady k c s).counter j d other

theorem counter_modLine (f : LineRec → LineRec) (keeps : (f (s.line k)).counters = (s.line k).counters) (j : Line)
    (d : LineCounter) : ((s.modLine k f).line j).counter d = (s.line j).counter d := by
  rw [State.line_modLine]
  split
  · next same => rw [same, LineRec.counter, keeps]; rfl
  · rfl

/-- An await record's expiry counts nothing but TX_RETRY, TX_RETURN and Q_REFUSED. -/
theorem counter_awaitExpiry (j : Line) (d : LineCounter) (retry : d ≠ .txRetry) (returned : d ≠ .txReturn)
    (refused : d ≠ .qRefused) : ((awaitExpiry k s).line j).counter d = (s.line j).counter d := by
  unfold awaitExpiry
  split
  · next i _ =>
    split
    · rw [counter_countLine _ _ _ refused, counter_bumpLine, if_neg fun h => retry h.2]
      exact counter_modLine _ rfl j d
    · rw [(returnFrame_steady _ _ _).counter j d refused, counter_countLine _ _ _ refused, counter_bumpLine,
        if_neg fun h => returned h.2]
      exact counter_modLine _ rfl j d
  · rfl
  · rfl
  · rfl

theorem counter_closeWindow (j : Line) (d : LineCounter) :
    ((closeWindow k s).line j).counter d = (s.line j).counter d := counter_modLine _ rfl j d

theorem counter_damagedReply (j : Line) (d : LineCounter) (retry : d ≠ .txRetry) (returned : d ≠ .txReturn)
    (refused : d ≠ .qRefused) : ((damagedReply k s).line j).counter d = (s.line j).counter d := by
  unfold damagedReply
  split
  · rw [counter_awaitExpiry j d retry returned refused, counter_closeWindow]
  · exact counter_closeWindow j d
  · rfl
  · rfl

theorem Follows.counter {u t : State} (h : Follows u t) (j : Line) (d : LineCounter) (refused : d ≠ .qRefused) :
    (t.line j).counter d = (u.line j).counter d := h.steady.counter j d refused

/-- Settles O26: the break character is counted before the frame, if any, is given up. -/
theorem breakCharacterStartsFaultTimer : Obligations.BreakCharacterStartsFaultTimer := by
  intro s k c up listens stop data l broken
  have class_ : classify (s.line k).config.parity c = .brk := (classify_classes _ _).1.mpr ⟨stop, data⟩
  have counted (m : LineRec) (same : m.counters = (s.line k).counters) :
      ((countLine k .rxBreak (s.setLine k m)).line k).counter .rxBreak =
        satInc ((s.line k).counter .rxBreak) := by
    rw [counter_countLine _ _ _ (by decide), counter_bumpLine, if_pos ⟨rfl, rfl⟩, State.line_setLine_same]
    simp only [LineRec.counter, same]
  have phase : (s.line k).rx.phase.inFrame = l.rx.phase.inFrame := rfl
  rw [exec_characterReceived]
  constructor
  · intro between
    have outside : ¬ l.rx.phase.inFrame = true := by
      rw [← phase]; rcases between with h | h <;> simp [h, RxPhase.inFrame]
    obtain ⟨t, ht, follows⟩ := event_follows (f := takeChar k c) (u := countLine k .rxBreak (s.setLine k broken))
      up listens (by rw [takeChar_brk class_, breakCharacter, stop, State.line_setLine_same, if_neg outside,
        State.modLine_setLine])
    exact ⟨t, ht, follows, by rw [follows.counter k _ (by decide), counted broken rfl]⟩
  · intro inside
    obtain ⟨t, ht, follows⟩ := event_follows (f := takeChar k c)
      (u := damagedReply k (countLine k .rxBreak (s.setLine k broken.backInHunt)))
      up listens (by rw [takeChar_brk class_, breakCharacter, stop, State.line_setLine_same, if_pos (phase ▸ inside),
        State.modLine_setLine, abandonFrame_setLine])
    exact ⟨t, ht, follows, by
      rw [follows.counter k _ (by decide), counter_damagedReply k _ (by decide) (by decide) (by decide),
        counted broken.backInHunt rfl]⟩

/-! ## The end of a frame -/

/-- Settles O27: the check register decides, and the data of the character alone. -/
theorem receiveCompletionAppliesCheck : Obligations.ReceiveCompletionAppliesCheck := by
  intro s k b i up listens place held l l'
  have inside : (s.line k).rx.phase.inFrame = true := by simp [place, RxPhase.inFrame]
  have possible : ((s.line k).listening && decide ((s.line k).rx.phase = .trail 1)) = true := by
    simp [listens, place]
  have completes (c : RxChar) (data : c.data = b) (good : classify (s.line k).config.parity c = .good) :
      takeChar k c s = receiveComplete k i (decide (l'.rx.crc = 0#16))
        (s.setLine k { (s.line k).afterChar .mark with
          rx := { ((s.line k).afterChar .mark).rx with
                  crc := l'.rx.crc, gap := some (s.line k).config.gapLimit } }) := by
    have stop : c.stop = .mark := ((classify_classes _ _).2.2.2.mp good).1
    rw [takeChar_inFrame inside good, storeByte_complete (l := (s.line k).afterChar c.stop) held place, data, stop]
    rfl
  have own : classify (s.line k).config.parity
      { data := b, parity := (parityBit (s.line k).config.parity b).getD false, stop := .mark } = .good :=
    (classify_classes _ _).2.2.2.mpr ⟨rfl, fun p e => by simp [e]⟩
  have row : exec (.receiveCompletion k b) s = event s
      ((s.line k).listening && decide ((s.line k).rx.phase = .trail 1))
      (takeChar k
        { data := b, parity := (parityBit (s.line k).config.parity b).getD false, stop := .mark }) := by
    unfold exec execReceiveCompletion; rfl
  rw [row]
  refine ⟨fun zero => event_follows up possible ?_, fun other => event_follows up possible ?_,
    fun c data good => ?_⟩
  · rw [completes _ rfl own, receiveComplete, if_pos (by simp [zero]), toHunt, State.modLine_setLine]
    rfl
  · rw [completes _ rfl own, receiveComplete, if_neg (by simp [other]), abandonFrame_setLine]
    rfl
  · rw [exec_characterReceived, event_next up listens, event_next up possible, completes _ data good,
      completes _ rfl own]

end Sys2Proof.Machine
end

section
/-! PROOFS. A step and its command; RSTn held low and released. -/

namespace Sys2Proof.Machine

variable {s : State}

/-- Settles O1: the two equations of `step`. -/
theorem stepRunsFrontCommand : Obligations.StepRunsFrontCommand :=
  ⟨fun s c rest h => by rw [step, h], fun s h => by rw [step, h]⟩

theorem execCommand_eq_event (code : Byte) (body : Body) (s : State) :
    ∃ p f, execCommand code body s = event s p f := ⟨_, _, rfl⟩

theorem execNoticeCommand_eq_event (code : Byte) (body : Body) (s : State) :
    ∃ p f, execNoticeCommand code body s = event s p f := ⟨_, _, rfl⟩

theorem execReceiveCompletion_eq_event (k : Line) (b : Byte) (s : State) :
    ∃ p f, execReceiveCompletion k b s = event s p f := ⟨_, _, rfl⟩

theorem execUnknownCommand_eq_event (s : State) : ∃ p f, execUnknownCommand s = event s p f := ⟨_, _, rfl⟩

/-- Every command but RSTn's two is an event of the part: guarded, with the consequences taken. -/
theorem exec_eq_event (c : Instr) (notAssert : c ≠ .rstnAssert) (notRelease : ∀ a m, c ≠ .rstnRelease a m)
    (s : State) : ∃ p f, exec c s = event s p f := by
  cases c with
  | rstnAssert => exact absurd rfl notAssert
  | rstnRelease a m => exact absurd rfl (notRelease a m)
  | characterReceived k c => exact ⟨_, _, exec_characterReceived s k c⟩
  | gapTimerExpiry k => exact ⟨_, _, exec_gapTimerExpiry s k⟩
  | quietTimerExpiry k => exact ⟨_, _, exec_quietTimerExpiry s k⟩
  | reservationGrant => exact ⟨_, _, exec_reservationGrant s⟩
  | transmitSelection k => exact ⟨_, _, exec_transmitSelection s k⟩
  | polledTurn k => exact ⟨_, _, exec_polledTurn s k⟩
  | transmitCompletion k => exact ⟨_, _, exec_transmitCompletion s k⟩
  | confirmTimerExpiry k => exact ⟨_, _, exec_confirmTimerExpiry s k⟩
  | replyWindowExpiry k => exact ⟨_, _, exec_replyWindowExpiry s k⟩
  | turnaroundEnd k => exact ⟨_, _, exec_turnaroundEnd s k⟩
  | pollPauseExpiry k => exact ⟨_, _, exec_pollPauseExpiry s k⟩
  | faultTimerExpiry k => exact ⟨_, _, exec_faultTimerExpiry s k⟩
  | rxdReturnToMark k => exact ⟨_, _, exec_rxdReturnToMark s k⟩
  | rxdSpaceInFault k => exact ⟨_, _, exec_rxdSpaceInFault s k⟩
  | recoveryTimerExpiry k => exact ⟨_, _, exec_recoveryTimerExpiry s k⟩
  | agentTake => exact ⟨_, _, exec_agentTake s⟩
  | replyWaitRoom => exact ⟨_, _, exec_replyWaitRoom s⟩
  | warmRestart => exact ⟨_, _, exec_warmRestart s⟩
  | leaseExpiry => exact ⟨_, _, exec_leaseExpiry s⟩
  | noticeSlotServed => exact ⟨_, _, exec_noticeSlotServed s⟩
  | noticeIntervalExpiry => exact ⟨_, _, exec_noticeIntervalExpiry s⟩
  | startBit k m => exact ⟨_, _, exec_startBit s k m⟩
  | receiveCompletion k b => exact execReceiveCompletion_eq_event k b s
  | ident => exact execCommand_eq_event _ identBody s
  | claim => exact execCommand_eq_event _ claimBody s
  | release => exact execCommand_eq_event _ releaseBody s
  | routeRead => exact execCommand_eq_event _ routeReadBody s
  | routeWrite => exact execCommand_eq_event _ routeWriteBody s
  | routeClear => exact execCommand_eq_event _ routeClearBody s
  | routeCopy => exact execCommand_eq_event _ routeCopyBody s
  | routeCommit => exact execCommand_eq_event _ routeCommitBody s
  | lineRead => exact execCommand_eq_event _ lineReadBody s
  | lineSet => exact execCommand_eq_event _ lineSetBody s
  | lineReset => exact execCommand_eq_event _ lineResetBody s
  | pollRead => exact execCommand_eq_event _ pollReadBody s
  | pollWrite => exact execCommand_eq_event _ pollWriteBody s
  | pollRemove => exact execCommand_eq_event _ pollRemoveBody s
  | countRead => exact execCommand_eq_event _ countReadBody s
  | poolRead => exact execCommand_eq_event _ poolReadBody s
  | relayRead => exact execCommand_eq_event _ relayReadBody s
  | relaySet => exact execCommand_eq_event _ relaySetBody s
  | noticeRead => exact execCommand_eq_event _ noticeReadBody s
  | restart => exact execCommand_eq_event _ restartBody s
  | noticeSet => exact execNoticeCommand_eq_event _ noticeSetBody s
  | noticeAck => exact execNoticeCommand_eq_event _ noticeAckBody s
  | unknownCommand => exact execUnknownCommand_eq_event s

theorem exec_of_rstnLow (c : Instr) (notAssert : c ≠ .rstnAssert) (notRelease : ∀ a m, c ≠ .rstnRelease a m)
    (low : s.rstnLow = true) : exec c s = .next s := by
  obtain ⟨p, f, e⟩ := exec_eq_event c notAssert notRelease s
  rw [e, event_impossible (.inl low)]

/-- Settles O4: what the state held in reset holds, and that every other command is an event. -/
theorem rstnLowSilencesPart : Obligations.RstnLowSilencesPart := by
  refine ⟨fun s => ⟨_, rfl, rfl, rfl, rfl, rfl, rfl, fun k => ?_⟩, fun s c low notAssert notRelease =>
    exec_of_rstnLow c notAssert notRelease low⟩
  have line : State.line { State.heldInReset s.straps with pending := s.pending } k = LineRec.powerOn false :=
    line_heldInReset s.straps k
  refine ⟨rfl, rfl, ?_⟩
  rw [line]
  exact ⟨rfl, rfl, rfl, rfl, rfl, rfl, rfl, rfl, rfl⟩

/-! ## Power-on -/

theorem State.slot_powerOn (p : Straps) (i : SlotIx) :
    (State.powerOn p).slot i =
      if i = 0 then { Slot.powerOn with arrival := some p.mgmtLine, holders := 1 } else Slot.powerOn := by
  change (State.setSlot { State.powerOn p with slots := Vector.replicate 128 Slot.powerOn } 0 _).slot i = _
  rw [State.slot_setSlot]
  split
  · rfl
  · simp [State.slot, Vector.get]

theorem State.record_powerOn (p : Straps) (q : NoticeKind) :
    (State.powerOn p).notice.records.get q.code =
      if q = .restarted then NoticeRecord.restartedOnce else NoticeRecord.clear := by
  cases q <;> rfl

theorem State.line_powerOn_eq (p : Straps) (k : Line) :
    (State.powerOn p).line k =
      { LineRec.powerOn (decide (k = p.mgmtLine)) with
        reservation := if k = p.mgmtLine then some 0 else none } := by
  rw [State.line_powerOn]
  split
  · next h => simp [h]
  · next h => simp [h]; rfl

theorem de_powerOn (p : Straps) (k : Line) : (State.powerOn p).de k = decide (k = p.mgmtLine) := by
  rw [State.de, State.line_powerOn_eq]
  by_cases h : k = p.mgmtLine <;> simp [h, State.powerOn, LineRec.powerOn, LineConfig.powerOn]

/-- Settles O3: the power-on record of every block, line by line and slot by slot. -/
theorem rstnReleaseGivesPowerOn : Obligations.RstnReleaseGivesPowerOn := by
  intro s addr msel
  let p : Straps := { addr := addr, msel := msel }
  let t : State := { State.powerOn p with pending := s.pending }
  have line (k : Line) : t.line k = { LineRec.powerOn (decide (k = msel.toFin)) with
      reservation := if k = msel.toFin then some 0 else none } := State.line_powerOn_eq p k
  have slot (i : SlotIx) : t.slot i =
      if i = 0 then { Slot.powerOn with arrival := some msel.toFin, holders := 1 } else Slot.powerOn :=
    State.slot_powerOn p i
  have frame (i : SlotIx) : (t.slot i).frame = Frame.powerOn ∧ (t.slot i).retry = 0 := by
    rw [slot]; split <;> exact ⟨rfl, rfl⟩
  have mgmt : t.line msel.toFin = { LineRec.powerOn true with reservation := some 0 } := by rw [line]; simp
  have other (k : Line) (h : k ≠ msel.toFin) : t.line k = LineRec.powerOn false := by
    rw [line]; simp [h]; rfl
  refine ⟨t, rfl, rfl, rfl, ?_⟩
  rw [mgmt]
  refine ⟨rfl, rfl, rfl, rfl, rfl, rfl, fun k h => ?_, fun k => ?_, fun k => ?_, fun k => ?_, fun i => ?_,
    fun i h => ?_, fun n => ?_, rfl, rfl, rfl, rfl, ?_, ?_, fun i h => ?_, rfl, rfl, rfl, rfl, rfl, rfl, rfl, rfl,
    rfl, rfl, rfl, fun c => ?_, rfl, rfl, rfl, rfl, rfl, rfl, rfl, rfl, fun q h => ?_, rfl, rfl, rfl, rfl, rfl, rfl,
    rfl, de_powerOn p, ?_⟩
  · rw [other k h]; exact ⟨rfl, rfl, rfl, rfl, rfl⟩
  · rw [line]; exact ⟨rfl, rfl, rfl, rfl, rfl, rfl, rfl, rfl, rfl, rfl, rfl, rfl, rfl⟩
  · rw [line]
    exact ⟨rfl, rfl, rfl, rfl, rfl, rfl, rfl, rfl, rfl, rfl, rfl, fun c => by
      simp [LineRec.counter, LineRec.powerOn, Vector.get]⟩
  · rw [line]
    have rx : (LineRec.powerOn (decide (k = msel.toFin))).rx =
        if k = msel.toFin then Receiver.fresh else Receiver.idleStopped := by simp [LineRec.powerOn]
    refine ⟨?_, ?_, ?_, ?_, rfl, rfl, rfl, rfl, rfl, rfl⟩ <;> (simp only [rx]; split <;> rfl)
  · obtain ⟨powerOn, retry⟩ := frame i
    rw [show t.frame i = Frame.powerOn from powerOn]
    exact ⟨rfl, rfl, rfl, rfl, rfl, rfl, retry⟩
  · rw [slot, if_neg h]; rfl
  · obtain ⟨active, shadow⟩ := powerOn_tables p n
    exact ⟨active, shadow.trans active.symm⟩
  · rw [slot]; rfl
  · rw [slot]; rfl
  · rw [slot, if_neg h]; rfl
  · simp [t, State.powerOn, RouteUnit.powerOn, RouteUnit.counter, Vector.get]
  · exact (State.record_powerOn p q).trans (if_neg h)
  · exact State.fltLow_eq_false fun k => State.line_powerOn_state_ne_fault p k

end Sys2Proof.Machine
end

section
/-! PROOFS. What the consequences of an event can do (`Calm`): the globals and every line's port view stand, a
line that is not ACTIVE keeps engine and queues, a line that waits for nothing keeps its reservation, every list
keeps its bound, and the notice unit stays consistent. -/

namespace Sys2Proof.Machine

variable {a s t : State} {i : SlotIx} {j k : Line}

/-! ## The relation -/

/-- What the consequences of an event can do to a line; `waiting` says whether the line waits for a
reservation. -/
structure LineCalm (waiting : Bool) (l l' : LineRec) : Prop where
  port : l'.port = l.port
  resting : l.state ≠ .active → l'.engine = l.engine ∧ l'.normalQ = l.normalQ ∧ l'.urgentQ = l.urgentQ
  normalQ : l'.normalQ.length ≤ max l.normalQ.length l.config.quota
  urgentQ : l'.urgentQ.length ≤ max l.urgentQ.length 4
  pendingConf : l'.pendingConf.length ≤ l.pendingConf.length
  reservation : waiting = false → l'.reservation = l.reservation

/-- A notice request waits only while the emission condition holds (R166). -/
def Asks (s : State) : Prop := s.pool.noticeWaiting = true → s.notice.emits = true

/-- What the consequences of an event can do to the state. -/
structure Calm (s t : State) : Prop where
  globals : t.globals = s.globals
  line : ∀ k, LineCalm (LineSet.has s.pool.waiters k) (s.line k) (t.line k)
  waiters : ∀ k, LineSet.has t.pool.waiters k = true → LineSet.has s.pool.waiters k = true
  agentQ : t.agent.queue.length ≤ max s.agent.queue.length 4
  notices : NoticesConsistent s → NoticesConsistent t
  asks : Asks s → Asks t

theorem LineRec.config_of_port {l l' : LineRec} (e : l'.port = l.port) : l'.config = l.config :=
  congrArg PortView.config e

theorem LineRec.state_of_port {l l' : LineRec} (e : l'.port = l.port) : l'.state = l.state :=
  congrArg PortView.state e

theorem LineCalm.refl (w : Bool) (l : LineRec) : LineCalm w l l :=
  ⟨rfl, fun _ => ⟨rfl, rfl, rfl⟩, Nat.le_max_left _ _, Nat.le_max_left _ _, Nat.le_refl _, fun _ => rfl⟩

theorem LineCalm.trans {w w' : Bool} {l l' l'' : LineRec} (h : LineCalm w l l') (g : LineCalm w' l' l'')
    (less : w' = true → w = true) : LineCalm w l l'' where
  port := g.port.trans h.port
  resting down := by
    obtain ⟨engine, normalQ, urgentQ⟩ := h.resting down
    obtain ⟨engine', normalQ', urgentQ'⟩ := g.resting (by rwa [LineRec.state_of_port h.port])
    exact ⟨engine'.trans engine, normalQ'.trans normalQ, urgentQ'.trans urgentQ⟩
  normalQ := by
    have first := h.normalQ
    have second := g.normalQ
    rw [LineRec.config_of_port h.port] at second
    omega
  urgentQ := by have := h.urgentQ; have := g.urgentQ; omega
  pendingConf := g.pendingConf.trans h.pendingConf
  reservation none := (g.reservation (Bool.eq_false_iff.mpr fun e => by simp [less e] at none)).trans
    (h.reservation none)

/-- A line of which nothing that `LineCalm` names has changed. -/
theorem LineCalm.of_eq {w : Bool} {l l' : LineRec} (port : l'.port = l.port) (engine : l'.engine = l.engine)
    (normalQ : l'.normalQ = l.normalQ) (urgentQ : l'.urgentQ = l.urgentQ)
    (reservation : l'.reservation = l.reservation) : LineCalm w l l' :=
  ⟨port, fun _ => ⟨engine, normalQ, urgentQ⟩, by rw [normalQ]; exact Nat.le_max_left _ _,
    by rw [urgentQ]; exact Nat.le_max_left _ _,
    Nat.le_of_eq (congrArg (fun v : EngineView => v.pendingConf.length) engine), fun _ => reservation⟩

theorem Calm.refl (s : State) : Calm s s :=
  ⟨rfl, fun _ => LineCalm.refl _ _, fun _ h => h, Nat.le_max_left _ _, id, id⟩

theorem Calm.trans {u : State} (h : Calm s t) (g : Calm t u) : Calm s u where
  globals := g.globals.trans h.globals
  line k := (h.line k).trans (g.line k) (h.waiters k)
  waiters k e := h.waiters k (g.waiters k e)
  agentQ := by have := h.agentQ; have := g.agentQ; omega
  notices e := g.notices (h.notices e)
  asks e := g.asks (h.asks e)

theorem NoticesConsistent.of_notice (h : NoticesConsistent s) (e : t.notice = s.notice) : NoticesConsistent t := by
  unfold NoticesConsistent
  rw [e]
  exact h

/-! ## Updates -/

theorem Calm.modLine (h : Calm a s) {f : LineRec → LineRec}
    (line : LineCalm (LineSet.has s.pool.waiters k) (s.line k) (f (s.line k))) : Calm a (s.modLine k f) :=
  h.trans ⟨rfl, fun j => by
    rw [State.line_modLine]
    split
    · next e => exact e ▸ line
    · exact LineCalm.refl _ _, fun _ e => e, Nat.le_max_left _ _, id, id⟩

/-- A change of the state outside the lines. -/
theorem Calm.aside (h : Calm a s) (globals : t.globals = s.globals) (lines : t.lines = s.lines)
    (pool : t.pool = s.pool) (agent : t.agent = s.agent) (notice : t.notice = s.notice) : Calm a t :=
  h.trans ⟨globals, fun k => by rw [State.line_of_lines lines]; exact LineCalm.refl _ _,
    fun k => by rw [pool]; exact id, by rw [agent]; exact Nat.le_max_left _ _,
    fun h => h.of_notice notice, fun h => by unfold Asks; rw [pool, notice]; exact h⟩

theorem Calm.modSlot (h : Calm a s) {f : Slot → Slot} : Calm a (s.modSlot i f) := h.aside rfl rfl rfl rfl rfl

theorem Calm.modFrame (h : Calm a s) {f : Frame → Frame} : Calm a (s.modFrame i f) := h.modSlot

theorem Calm.bumpRelay (h : Calm a s) {c : RelayCounter} : Calm a (s.bumpRelay c) := h.aside rfl rfl rfl rfl rfl

theorem Calm.bumpLine (h : Calm a s) {c : LineCounter} : Calm a (s.bumpLine k c) :=
  h.modLine (LineCalm.of_eq rfl rfl rfl rfl rfl)

theorem Calm.modPool (h : Calm a s) {f : Pool → Pool}
    (settings : (f s.pool).reserve = s.pool.reserve ∧ (f s.pool).lowMark = s.pool.lowMark ∧
      (f s.pool).highMark = s.pool.highMark)
    (waiters : ∀ k, LineSet.has (f s.pool).waiters k = true → LineSet.has s.pool.waiters k = true)
    (asks : (f s.pool).noticeWaiting = true → s.pool.noticeWaiting = true) : Calm a (s.modPool f) :=
  h.trans ⟨(Steady.modPool s f settings).globals, fun _ => LineCalm.refl _ _, waiters, Nat.le_max_left _ _, id,
    fun h e => h (asks e)⟩

theorem Calm.modAgent (h : Calm a s) {f : Agent → Agent}
    (settings : (f s.agent).claim = s.agent.claim ∧ (f s.agent).lease = s.agent.lease ∧
      (f s.agent).leaseSetting = s.agent.leaseSetting ∧ (f s.agent).cache = s.agent.cache)
    (queue : (f s.agent).queue.length ≤ max s.agent.queue.length 4) : Calm a (s.modAgent f) :=
  h.trans ⟨(Steady.modAgent s f settings).globals, fun _ => LineCalm.refl _ _, fun _ h => h, queue, id, id⟩

theorem Calm.modNotice (h : Calm a s) {f : NoticeUnit → NoticeUnit}
    (settings : (s.modNotice f).globals = s.globals)
    (notices : NoticesConsistent s → NoticesConsistent (s.modNotice f))
    (emits : s.pool.noticeWaiting = true → s.notice.emits = true → (f s.notice).emits = true) :
    Calm a (s.modNotice f) :=
  h.trans ⟨settings, fun _ => LineCalm.refl _ _, fun _ h => h, Nat.le_max_left _ _, notices,
    fun h e => emits e (h e)⟩

theorem Calm.foldl {α : Type} {f : State → α → State} (step : ∀ s x, Calm a s → Calm a (f s x)) (xs : List α)
    (h : Calm a s) : Calm a (xs.foldl f s) := by
  induction xs generalizing s with
  | nil => exact h
  | cons x xs ih => exact ih (step s x h)

/-! ## References and the notice unit -/

theorem Calm.dropRef (h : Calm a s) : Calm a (dropRef i s) := by
  unfold Machine.dropRef
  dsimp only
  split
  · exact h.modSlot.modPool ⟨rfl, rfl, rfl⟩ (fun _ e => e) id
  · exact h.modSlot

theorem NoticeUnit.emits_iff (n : NoticeUnit) : n.emits = true ↔
    n.state = .idle ∧ n.address ≠ 0#16 ∧ ∃ q : NoticeKind, n.reports q = true := by
  have reported : n.reported ≠ [] ↔ ∃ q : NoticeKind, n.reports q = true := by
    have all (q : NoticeKind) : q ∈ allKinds := by cases q <;> decide
    simp [NoticeUnit.reported, all]
  simp [NoticeUnit.emits, and_assoc, ← reported]

theorem pending_recordEvent (q : NoticeKind) (l : Option Line) (v : Option Addr) (s : State) (p : NoticeKind)
    (h : (s.notice.records.get p.code).pending = true) :
    ((recordEvent q l v s).notice.records.get p.code).pending = true := by
  rw [record_recordEvent]
  split
  · rfl
  · exact h

theorem emits_recordEvent {q : NoticeKind} {l : Option Line} {v : Option Addr} (h : s.notice.emits = true) :
    (recordEvent q l v s).notice.emits = true := by
  obtain ⟨idle, address, p, reports⟩ := (NoticeUnit.emits_iff _).mp h
  simp only [NoticeUnit.reports, Bool.and_eq_true] at reports
  refine (NoticeUnit.emits_iff _).mpr ⟨idle, address, p, ?_⟩
  simp only [NoticeUnit.reports, Bool.and_eq_true]
  exact ⟨pending_recordEvent q l v s p reports.1, reports.2⟩

/-- The next value of an event count is above 0 and not below the last (R164). -/
theorem count_grows (c : BitVec 8) :
    (if c = 0xFF#8 then c else c + 1#8) ≠ 0#8 ∧ c ≤ if c = 0xFF#8 then c else c + 1#8 := by
  split
  · next e => subst e; decide
  · next e =>
    have below : c.toNat < 255 := by
      have := c.isLt
      have : c.toNat ≠ 255 := fun h => e (BitVec.eq_of_toNat_eq h)
      omega
    have next : (c + 1#8).toNat = c.toNat + 1 := by
      rw [BitVec.toNat_add, BitVec.toNat_one (by omega), Nat.mod_eq_of_lt (by omega)]
    exact ⟨fun h => by simp [h] at next, BitVec.le_def.mpr (by omega)⟩

theorem NoticesConsistent.recordEvent (h : NoticesConsistent s) (q : NoticeKind) (l : Option Line)
    (v : Option Addr) : NoticesConsistent (recordEvent q l v s) := by
  obtain ⟨building, timer, pending, distinct, listed⟩ := h
  refine ⟨building, timer, fun p => ?_, distinct, fun p member => ?_⟩
  · rw [record_recordEvent]
    split
    · exact iff_of_true rfl (count_grows _).1
    · exact pending p
  · rw [record_recordEvent]
    split
    · next e => exact e ▸ BitVec.le_trans (listed p member) (count_grows _).2
    · exact listed p member

theorem Calm.recordEvent (h : Calm a s) {q : NoticeKind} {l : Option Line} {v : Option Addr} :
    Calm a (recordEvent q l v s) :=
  h.modNotice rfl (fun h => h.recordEvent q l v) fun _ => emits_recordEvent

theorem Calm.countRelayInEmission (h : Calm a s) {c : RelayCounter} : Calm a (countRelayInEmission c s) := by
  unfold Machine.countRelayInEmission
  dsimp only
  split
  · exact h.bumpRelay.recordEvent
  · exact h.bumpRelay

theorem LineCalm.joinUrgent {w : Bool} {l : LineRec} (active : l.state = .active) (room : l.urgentQ.length < 4) :
    LineCalm w l { l with urgentQ := l.urgentQ ++ [i] } :=
  { LineCalm.refl w l with
    resting := fun down => absurd active down
    urgentQ := by simp; omega }

theorem LineCalm.joinNormal {w : Bool} {l : LineRec} (active : l.state = .active)
    (room : l.normalQ.length < l.config.quota) : LineCalm w l { l with normalQ := l.normalQ ++ [i] } :=
  { LineCalm.refl w l with
    resting := fun down => absurd active down
    normalQ := by simp; omega }

theorem Calm.offerUrgent (h : Calm a s) : Calm a (offerUrgent j i s).1 := by
  unfold Machine.offerUrgent
  dsimp only
  split
  · next admitted =>
    exact h.modLine (f := fun l => { l with urgentQ := l.urgentQ ++ [i] })
      (LineCalm.joinUrgent admitted.1 admitted.2)
  · exact h

theorem Calm.routeNotice (h : Calm a s) : Calm a (routeNotice i s) := by
  unfold Machine.routeNotice
  split
  · next j d _ =>
    have offered : Calm a (Machine.offerUrgent j i (s.modFrame i fun f => { f with dest := d })).1 :=
      h.modFrame.offerUrgent
    dsimp only
    split
    · exact offered
    · exact offered.dropRef
  · exact h.countRelayInEmission.dropRef
  · exact h.countRelayInEmission.dropRef

theorem State.modSlot_modSlot (s : State) (i : SlotIx) (f g : Slot → Slot) :
    (s.modSlot i f).modSlot i g = s.setSlot i (g (f (s.slot i))) := by
  rw [State.modSlot, State.slot_modSlot_same]
  simp [State.modSlot, State.setSlot]

/-- The state in which an emission has built its NOTICE in the head `i` of the free list (R47, R167). -/
def State.noticeBuilt (s : State) (i : SlotIx) (rest : List SlotIx) : State :=
  State.setSlot
    { s with
      pool := { s.pool with free := rest, noticeWaiting := false }
      notice :=
        { s.notice with seq := s.notice.seq + 1#4, listed := s.notice.listing, building := none } }
    i
    { frame := noticeFrame { s with notice := { s.notice with seq := s.notice.seq + 1#4 } }
      arrival := none
      holders := 1
      retry := 0 }

/-- The notice unit enters OUTSTANDING with its interval timer started (R168). -/
def NoticeUnit.sent (n : NoticeUnit) : NoticeUnit := { n with state := .outstanding, timer := some n.interval }

theorem emitNotice_of_free {rest : List SlotIx} (e : s.pool.free = i :: rest) :
    emitNotice s = (routeNotice i (s.noticeBuilt i rest)).modNotice NoticeUnit.sent := by
  unfold emitNotice allocate
  rw [e]
  exact congrArg (fun u : State => (routeNotice i u).modNotice NoticeUnit.sent)
    (State.modSlot_modSlot
      { s with
        pool := { s.pool with free := rest, noticeWaiting := false }
        notice := { s.notice with seq := s.notice.seq + 1#4, listed := s.notice.listing, building := none } }
      i (fun x => { x with arrival := none, holders := 1, retry := 0 })
      (fun x => { x with frame := noticeFrame { s with notice := { s.notice with seq := s.notice.seq + 1#4 } } }))

theorem emitNotice_of_none (e : s.pool.free = []) : emitNotice s = s := by
  unfold emitNotice allocate
  rw [e]

theorem allKinds_nodup : allKinds.Nodup := by decide

/-- The listing of a NOTICE built now is distinct and carries the records' own counts. -/
theorem NoticeUnit.listing_consistent (n : NoticeUnit) : (n.listing.map Prod.fst).Nodup ∧
    ∀ p ∈ n.listing, p.2 = (n.records.get p.1.code).count := by
  constructor
  · rw [NoticeUnit.listing, List.map_map]
    exact (List.map_id _).symm ▸ allKinds_nodup.filter _
  · intro p member
    obtain ⟨q, -, rfl⟩ := List.mem_map.mp member
    rfl

theorem NoticesConsistent.noticeBuilt {rest : List SlotIx} (h : NoticesConsistent s) :
    NoticesConsistent (s.noticeBuilt i rest) := by
  obtain ⟨-, timer, pending, -, -⟩ := h
  obtain ⟨distinct, listed⟩ := s.notice.listing_consistent
  exact ⟨rfl, timer, pending, distinct, fun p member => (listed p member) ▸ BitVec.le_refl _⟩

theorem Calm.noticeBuilt {rest : List SlotIx} (h : Calm a s) : Calm a (s.noticeBuilt i rest) :=
  h.trans ⟨rfl, fun _ => LineCalm.refl _ _, fun _ e => e, Nat.le_max_left _ _, NoticesConsistent.noticeBuilt,
    fun _ e => nomatch e⟩

theorem dropRef_noticeWaiting (i : SlotIx) (s : State) :
    (Machine.dropRef i s).pool.noticeWaiting = s.pool.noticeWaiting := by
  unfold Machine.dropRef; dsimp only; split <;> rfl

theorem countRelayInEmission_pool (c : RelayCounter) (s : State) :
    (Machine.countRelayInEmission c s).pool = s.pool := by
  unfold Machine.countRelayInEmission; dsimp only; split <;> rfl

theorem offerUrgent_pool (j : Line) (i : SlotIx) (s : State) : (Machine.offerUrgent j i s).1.pool = s.pool := by
  unfold Machine.offerUrgent; dsimp only; split <;> rfl

/-- Routing a NOTICE leaves the pool as it was, or drops the NOTICE's slot. -/
theorem routeNotice_pool (i : SlotIx) (s : State) : ∃ u : State, u.pool = s.pool ∧
    ((Machine.routeNotice i s).pool = s.pool ∨ Machine.routeNotice i s = Machine.dropRef i u) := by
  unfold Machine.routeNotice
  split
  · next j d _ =>
    refine ⟨(Machine.offerUrgent j i (s.modFrame i fun f => { f with dest := d })).1, offerUrgent_pool _ _ _, ?_⟩
    dsimp only
    split
    · exact .inl (offerUrgent_pool _ _ _)
    · exact .inr rfl
  · exact ⟨_, countRelayInEmission_pool _ _, .inr rfl⟩
  · exact ⟨_, countRelayInEmission_pool _ _, .inr rfl⟩

theorem routeNotice_noticeWaiting (i : SlotIx) (s : State) :
    (Machine.routeNotice i s).pool.noticeWaiting = s.pool.noticeWaiting := by
  obtain ⟨u, pool, same | dropped⟩ := routeNotice_pool i s
  · rw [same]
  · rw [dropped, dropRef_noticeWaiting, pool]

theorem emitNotice_noticeWaiting (h : s.pool.free ≠ []) : (emitNotice s).pool.noticeWaiting = false := by
  obtain ⟨i, rest, e⟩ := List.exists_cons_of_ne_nil h
  rw [emitNotice_of_free e, State.modNotice_pool, routeNotice_noticeWaiting]
  rfl

theorem Calm.emitNotice (h : Calm a s) : Calm a (emitNotice s) := by
  rcases e : s.pool.free with _ | ⟨i, rest⟩
  · rwa [emitNotice_of_none e]
  · rw [emitNotice_of_free e]
    refine (h.noticeBuilt.routeNotice).modNotice rfl ?_ ?_
    · rintro ⟨building, -, pending, distinct, listed⟩
      exact ⟨building, iff_of_true rfl (by simp [NoticeUnit.sent]), pending, distinct, listed⟩
    · intro waiting
      rw [routeNotice_noticeWaiting] at waiting
      cases waiting

theorem Calm.emissionTest (h : Calm a s) : Calm a (emissionTest s) := by
  unfold Machine.emissionTest
  split
  · next emits =>
    split
    · exact h
    · split
      · exact h.trans ⟨rfl, fun _ => LineCalm.refl _ _, fun _ e => e, Nat.le_max_left _ _, id, fun _ _ => emits⟩
      · exact h.emitNotice
  · exact h.modPool ⟨rfl, rfl, rfl⟩ (fun _ e => e) (fun e => nomatch e)

theorem Calm.noteEvent (h : Calm a s) {q : NoticeKind} {l : Option Line} {v : Option Addr} :
    Calm a (noteEvent q l v s) := h.recordEvent.emissionTest

theorem Calm.countLine (h : Calm a s) {c : LineCounter} : Calm a (countLine k c s) := by
  unfold Machine.countLine
  dsimp only
  split
  · exact h.bumpLine.noteEvent
  · exact h.bumpLine

theorem Calm.countRelay (h : Calm a s) {c : RelayCounter} : Calm a (countRelay c s) := by
  unfold Machine.countRelay
  dsimp only
  split
  · exact h.bumpRelay.noteEvent
  · exact h.bumpRelay

/-! ## Grants and the pool's service -/

theorem allocate_of_free {x : Option Line} {rest : List SlotIx} (e : s.pool.free = i :: rest) :
    allocate x s = some (i, (s.modPool (fun p => { p with free := rest })).modSlot i
      (fun y => { y with arrival := x, holders := 1, retry := 0 })) := by
  unfold allocate
  rw [e]

/-- A grant to a line that waits. -/
theorem Calm.grantTo (h : Calm a s) (waits : LineSet.has s.pool.waiters k = true) : Calm a (grantTo k s) := by
  rcases e : s.pool.free with _ | ⟨i, rest⟩
  · unfold Machine.grantTo allocate
    rwa [e]
  · unfold Machine.grantTo
    rw [allocate_of_free e]
    dsimp only
    have taken : Calm a ((s.modPool fun p => { p with free := rest }).modSlot i
        fun y => { y with arrival := some k, holders := 1, retry := 0 }) :=
      (h.modPool ⟨rfl, rfl, rfl⟩ (fun _ e => e) id).modSlot
    refine taken.trans ⟨rfl, fun j => ?_, fun j => ?_, Nat.le_max_left _ _, id, id⟩
    · rw [State.line_modLine]
      split
      · next same =>
        subst same
        exact ⟨rfl, fun _ => ⟨rfl, rfl, rfl⟩, Nat.le_max_left _ _, Nat.le_max_left _ _, Nat.le_refl _,
          fun none => absurd (none.symm.trans waits) (by decide)⟩
      · exact LineCalm.refl _ _
    · simp only [State.modLine_pool, State.modPool_pool, State.modSlot_pool, LineSet.has_erase, Bool.and_eq_true]
      exact And.left

theorem Calm.grantOne (h : Calm a s) : Calm a (grantOne s) := by
  unfold Machine.grantOne
  split
  · split
    · next k e => exact h.grantTo (Pool.has_of_nextWaiter e)
    · exact h
  · exact h

theorem Calm.grantWaiters (h : Calm a s) : Calm a (grantWaiters s) := Calm.foldl (fun _ _ h => h.grantOne) _ h

theorem Calm.serveNotice (h : Calm a s) : Calm a (serveNotice s) := by
  unfold Machine.serveNotice
  split
  · exact h.emitNotice
  · exact h

theorem Calm.poolService (h : Calm a s) : Calm a (poolService s) := h.serveNotice.grantWaiters

theorem Calm.releaseRef (h : Calm a s) : Calm a (releaseRef i s) := h.dropRef.poolService

theorem Calm.evaluatePool (h : Calm a s) : Calm a (evaluatePool s) := by
  have evaluated : Calm a (s.modPool fun p => { p with state := p.evaluated }) :=
    h.modPool ⟨rfl, rfl, rfl⟩ (fun _ e => e) id
  unfold Machine.evaluatePool
  dsimp only
  split
  · exact evaluated.noteEvent
  · exact evaluated

/-! ## Admissions, RETURNs, broadcasts and commands -/

theorem Calm.admitNormal (h : Calm a s) : Calm a (admitNormal j i s).1 := by
  unfold Machine.admitNormal
  split
  · next admits =>
    simp only [LineRec.admits, Bool.and_eq_true, decide_eq_true_eq] at admits
    exact h.modLine (f := fun l => { l with normalQ := l.normalQ ++ [i] })
      (LineCalm.joinNormal admits.1 admits.2)
  · exact h.countLine

theorem Calm.makeReturn (h : Calm a s) {r : Reason} : Calm a (makeReturn r i s) := h.modSlot

theorem Calm.routeReturn (h : Calm a s) : Calm a (routeReturn i s) := by
  unfold Machine.routeReturn
  split
  · next j d _ =>
    have offered : Calm a (Machine.admitNormal j i (s.modFrame i fun f => { f with dest := d })).1 :=
      h.modFrame.admitNormal
    dsimp only
    split
    · exact offered
    · exact offered.dropRef
  · exact h.countRelay.dropRef
  · exact h.countRelay.noteEvent.dropRef

theorem Calm.returnFrame (h : Calm a s) {r : Reason} : Calm a (returnFrame r i s) :=
  h.makeReturn.routeReturn.poolService

theorem Calm.offerCopy (h : Calm a s) : Calm a (offerCopy i s j) := by
  unfold Machine.offerCopy
  dsimp only
  split
  · exact h.admitNormal.modSlot
  · exact h.admitNormal

theorem Calm.broadcast (h : Calm a s) : Calm a (broadcast k i s) := by
  unfold Machine.broadcast
  dsimp only
  split
  · exact h.countRelay.releaseRef
  · exact (Calm.foldl (fun _ _ h => h.offerCopy) _ h.modFrame).releaseRef

theorem Calm.acceptCommand (h : Calm a s) : Calm a (acceptCommand k i s) := by
  unfold Machine.acceptCommand
  split
  · exact h.countRelay.releaseRef
  · split
    · next room => exact h.modAgent ⟨rfl, rfl, rfl, rfl⟩ (by simp [Config.agentCap] at room ⊢; omega)
    · exact h.countRelay.releaseRef

theorem Calm.routeReceived (h : Calm a s) : Calm a (routeReceived k i s).1 := by
  unfold Machine.routeReceived
  split
  · exact h.acceptCommand
  · exact h.broadcast
  · next j d _ =>
    have offered : Calm a (Machine.admitNormal j i (s.modFrame i fun f => { f with dest := d })).1 :=
      h.modFrame.admitNormal
    dsimp only
    split
    · exact offered
    · dsimp only
      exact offered.releaseRef
  · next c _ =>
    dsimp only
    split
    · exact h.countRelay.noteEvent.releaseRef
    · exact h.countRelay.releaseRef

/-! ## The agent's reply and the flush of references -/

theorem Calm.noteReplyGone (h : Calm a s) : Calm a (noteReplyGone i s) := by
  unfold Machine.noteReplyGone
  split
  · exact h.modAgent ⟨rfl, rfl, rfl, rfl⟩ (Nat.le_max_left _ _)
  · exact h

theorem Calm.letGo (h : Calm a s) : Calm a (s.modAgent Agent.letGo) :=
  h.modAgent ⟨rfl, rfl, rfl, rfl⟩ (Nat.le_max_left _ _)

theorem Calm.releaseReply (h : Calm a s) : Calm a (releaseReply i s) := h.letGo.noteReplyGone.releaseRef

theorem Calm.offerReply (h : Calm a s) : Calm a (offerReply s) := by
  unfold Machine.offerReply
  split
  · exact h
  · next i _ =>
    split
    · exact h.releaseReply
    · next j _ =>
      split
      · next active =>
        split
        · next room =>
          exact (h.modLine (f := fun l => { l with urgentQ := l.urgentQ ++ [i] })
            (LineCalm.joinUrgent active room)).letGo
        · exact h.modAgent ⟨rfl, rfl, rfl, rfl⟩ (Nat.le_max_left _ _)
      · exact h.releaseReply

theorem Calm.giveRoom (h : Calm a s) : Calm a (giveRoom s) := by
  unfold Machine.giveRoom
  split
  · exact h.offerReply
  · exact h

theorem Calm.dropHeldReply (h : Calm a s) : Calm a (dropHeldReply k s) := by
  unfold Machine.dropHeldReply
  split
  · exact h
  · split
    · exact h.releaseReply
    · exact h

theorem Calm.takeCommand (h : Calm a s) : Calm a (takeCommand s) := by
  unfold Machine.takeCommand
  split
  · split
    · exact h
    · next i rest e => exact h.modAgent ⟨rfl, rfl, rfl, rfl⟩ (by rw [e]; simp)
  · exact h

theorem Calm.flushDrop (h : Calm a s) : Calm a (flushDrop s i) := h.noteReplyGone.dropRef

theorem Calm.flushRef {acc : State × List SlotIx} (h : Calm a acc.1) : Calm a (flushRef acc i).1 := by
  unfold Machine.flushRef
  split
  · exact h.makeReturn
  · exact h.flushDrop

theorem Calm.flushTp (h : Calm a s) (tp : Option TxItem) : Calm a (flushTp tp s).1 := by
  unfold Machine.flushTp
  split
  · exact h
  · exact h
  · exact h
  · exact h.flushDrop
  · exact Calm.flushRef (acc := (s, [])) h
  · exact h.flushDrop

theorem Calm.flushAwait {acc : State × List SlotIx} (h : Calm a acc.1) (w : Await) :
    Calm a (flushAwait w acc).1 := by
  unfold Machine.flushAwait
  split
  · exact h
  · exact h.makeReturn

theorem Calm.flushRefs (q : List SlotIx) {acc : State × List SlotIx} (h : Calm a acc.1) :
    Calm a (q.foldl Machine.flushRef acc).1 := by
  induction q generalizing acc with
  | nil => exact h
  | cons i q ih => exact ih h.flushRef

theorem Calm.flushFrames (h : Calm a s) (l : LineRec) : Calm a (flushFrames l s).1 :=
  Calm.foldl (fun _ _ h => h.flushDrop) _ (Calm.flushRefs _ ((h.flushTp l.tp).flushAwait l.await))

/-- A flush empties its line and then only drops, returns and serves (R85). -/
theorem Calm.flushLine {p : Bool} (s : State) :
    Calm (s.modLine k (LineRec.emptied p)) (flushLine k p s) := by
  have dropped := (Calm.refl (s.modLine k (LineRec.emptied p))).flushFrames (s.line k)
  unfold Machine.flushLine
  exact (Calm.foldl (f := fun s i => Machine.routeReturn i s) (fun _ _ h => h.routeReturn) _
    dropped).poolService.evaluatePool

end Sys2Proof.Machine
end

section
/-! PROOFS. The selections and turns of active lines are calm, and so is the whole of what follows a command's
own effect. -/

namespace Sys2Proof.Machine

variable {a s t : State} {i : SlotIx} {j k : Line}

theorem LineCalm.of_active {w : Bool} {l l' : LineRec} (active : l.state = .active) (port : l'.port = l.port)
    (normalQ : l'.normalQ.length ≤ l.normalQ.length) (urgentQ : l'.urgentQ.length ≤ l.urgentQ.length)
    (pendingConf : l'.pendingConf.length ≤ l.pendingConf.length) (reservation : l'.reservation = l.reservation) :
    LineCalm w l l' :=
  ⟨port, fun down => absurd active down, normalQ.trans (Nat.le_max_left _ _),
    urgentQ.trans (Nat.le_max_left _ _), pendingConf, fun _ => reservation⟩

theorem Calm.state (h : Calm s t) (k : Line) : (t.line k).state = (s.line k).state :=
  LineRec.state_of_port (h.line k).port

theorem Calm.config (h : Calm s t) (k : Line) : (t.line k).config = (s.line k).config :=
  LineRec.config_of_port (h.line k).port

theorem LineRec.active_of_selects {l : LineRec} (h : l.selects = true) : l.state = .active := by
  simp only [LineRec.selects, Bool.and_eq_true, decide_eq_true_eq] at h
  exact h.1.1

theorem Calm.beginTx (h : Calm a s) (active : (s.line k).state = .active) {x : TxItem} : Calm a (beginTx k x s) :=
  h.modLine (LineCalm.of_active active (by dsimp only; split <;> rfl) (Nat.le_refl _) (Nat.le_refl _) (Nat.le_refl _) rfl)

/-- A source is taken from the head of its list, and its transmission begins. -/
theorem Calm.send (h : Calm a s) (active : (s.line k).state = .active) {f : LineRec → LineRec} {x : TxItem}
    (port : (f (s.line k)).port = (s.line k).port)
    (normalQ : (f (s.line k)).normalQ.length ≤ (s.line k).normalQ.length)
    (urgentQ : (f (s.line k)).urgentQ.length ≤ (s.line k).urgentQ.length)
    (pendingConf : (f (s.line k)).pendingConf.length ≤ (s.line k).pendingConf.length)
    (reservation : (f (s.line k)).reservation = (s.line k).reservation) :
    Calm a (Machine.beginTx k x (s.modLine k f)) :=
  (h.modLine (LineCalm.of_active active port normalQ urgentQ pendingConf reservation)).beginTx
    (by rw [State.line_modLine_same, LineRec.state_of_port port, active])

theorem Calm.sendNormal (h : Calm a s) (active : (s.line k).state = .active) : Calm a (sendNormal k i s) :=
  h.send active rfl (by simp) (Nat.le_refl _) (Nat.le_refl _) rfl

theorem Calm.firstSources (h : Calm a s) (active : (s.line k).state = .active)
    (e : firstSources k s = some t) : Calm a t := by
  unfold Machine.firstSources at e
  dsimp only at e
  split at e
  · cases e; exact h.send active rfl (Nat.le_refl _) (Nat.le_refl _) (by simp) rfl
  · cases e; exact h.send active rfl (Nat.le_refl _) (by simp) (Nat.le_refl _) rfl
  · cases e
    exact (h.modSlot (f := fun x => { x with holders := x.holders + 1 })).send active rfl (Nat.le_refl _)
      (Nat.le_refl _) (Nat.le_refl _) rfl
  · cases e
  · cases e
  · cases e

theorem Calm.selectDirect (h : Calm a s) (active : (s.line k).state = .active) : Calm a (selectDirect k s) := by
  unfold Machine.selectDirect
  split
  · next t e => exact h.firstSources active e
  · split
    · exact h.sendNormal active
    · exact h

theorem Calm.removeAbsentHead (h : Calm a s) (active : (s.line k).state = .active) :
    Calm a (removeAbsentHead k i s) := by
  have removed : Calm a (s.modLine k fun l => { l with normalQ := l.normalQ.tail }) :=
    h.modLine (LineCalm.of_active active rfl (by simp) (Nat.le_refl _) (Nat.le_refl _) rfl)
  unfold Machine.removeAbsentHead
  dsimp only
  split
  · exact removed.returnFrame
  · exact removed.releaseRef.countLine

theorem removeAbsentHead_state (k : Line) (i : SlotIx) (s : State) :
    ((removeAbsentHead k i s).line k).state = (s.line k).state :=
  (removeAbsentHead_steady k i s).line_state k

theorem Calm.serveNormal (n : Nat) (h : Calm a s) (active : (s.line k).state = .active) :
    Calm a (serveNormal k n s).1 := by
  induction n generalizing s with
  | zero => exact h
  | succ n ih =>
    rw [Machine.serveNormal]
    split
    · exact h
    · next i _ _ =>
      split
      · exact ih (h.removeAbsentHead active) (by rw [removeAbsentHead_state, active])
      · have counted : Calm a (s.modLine k fun l =>
            { l with burst := if l.pollList.isEmpty then l.burst else l.burst + 1 }) :=
          h.modLine (LineCalm.of_active active rfl (Nat.le_refl _) (Nat.le_refl _) (Nat.le_refl _) rfl)
        exact counted.sendNormal (by rw [State.line_modLine_same]; exact active)

theorem Calm.passEnded (h : Calm a s) (active : (s.line k).state = .active) :
    Calm a (s.modLine k LineRec.passEnded) :=
  h.modLine (LineCalm.of_active active rfl (Nat.le_refl _) (Nat.le_refl _) (Nat.le_refl _) rfl)

theorem Calm.pollSearch (n : Nat) (h : Calm a s) (active : (s.line k).state = .active) :
    Calm a (pollSearch k n s) := by
  induction n generalizing s with
  | zero => exact h
  | succ n ih =>
    rw [Machine.pollSearch]
    split
    · exact h
    · split
      · exact h.send active rfl (Nat.le_refl _) (Nat.le_refl _) (Nat.le_refl _) rfl
      · exact ih (h.passEnded active) (by rw [State.line_modLine_same]; exact active)

theorem Calm.takeTurn (h : Calm a s) (active : (s.line k).state = .active) : Calm a (takeTurn k s) := by
  unfold Machine.takeTurn
  split
  · next t e => exact h.firstSources active e
  · split
    · have served := h.serveNormal (serveFuel (s.line k)) active
      dsimp only
      split
      · exact served
      · exact served.pollSearch _ (((serveNormal_steady k _ s).line_state k).trans active)
    · exact h.pollSearch _ active

theorem Calm.attend (h : Calm a s) : Calm a (attend s k) := by
  unfold Machine.attend
  split
  · next selects => exact h.selectDirect (LineRec.active_of_selects selects)
  · split
    · next turn => exact h.takeTurn (LineRec.polls_of_takesTurn turn).1
    · exact h

theorem Calm.attendRounds (n : Nat) (h : Calm a s) : Calm a (attendRounds n s) := by
  induction n generalizing s with
  | zero => exact h
  | succ n ih =>
    rw [Machine.attendRounds]
    split
    · exact h
    · exact ih (Calm.foldl (fun _ _ h => h.attend) _ h)

theorem Calm.settle (h : Calm a s) : Calm a (settle s) :=
  ((h.takeCommand.attendRounds _).evaluatePool).attendRounds _

theorem Calm.turnAfterSet (h : Calm a s) {old : LineRec} : Calm a (turnAfterSet k old s) := by
  rcases turnAfterSet_cases s k old with ⟨e, turn, -⟩ | ⟨e, -⟩
  · rw [e]; exact h.takeTurn (LineRec.polls_of_takesTurn turn).1
  · rwa [e]

end Sys2Proof.Machine
end

section
/-! PROOFS. The pool serves what it can (`PoolServes`): a release leaves at most a request whose condition holds
(`Asks`), and the service after it serves every request. -/

namespace Sys2Proof.Machine

variable {s t : State} {i : SlotIx} {j k : Line}

theorem PoolServes.asks (h : PoolServes s) : Asks s := fun waiting => (h.2 waiting).2

theorem PoolServes.of_eq (h : PoolServes s) (pool : t.pool = s.pool) (notice : t.notice = s.notice) :
    PoolServes t := by
  unfold PoolServes
  rw [pool, notice]
  exact h

theorem PoolServes.modLine (h : PoolServes s) {f : LineRec → LineRec} : PoolServes (s.modLine k f) := h.of_eq rfl rfl

theorem PoolServes.modSlot (h : PoolServes s) {f : Slot → Slot} : PoolServes (s.modSlot i f) := h.of_eq rfl rfl

theorem PoolServes.modAgent (h : PoolServes s) {f : Agent → Agent} : PoolServes (s.modAgent f) := h.of_eq rfl rfl

theorem PoolServes.modRoute (h : PoolServes s) {f : RouteUnit → RouteUnit} : PoolServes (s.modRoute f) :=
  h.of_eq rfl rfl

theorem PoolServes.foldl {α : Type} {f : State → α → State} (step : ∀ s x, PoolServes s → PoolServes (f s x))
    (xs : List α) (h : PoolServes s) : PoolServes (xs.foldl f s) := by
  induction xs generalizing s with
  | nil => exact h
  | cons x xs ih => exact ih (step s x h)

/-! ## Sets of waiters -/

theorem LineSet.exists_has {w : LineSet} (h : w ≠ 0#8) : ∃ k, LineSet.has w k = true := by
  by_contra none
  exact h (BitVec.eq_of_getLsbD_eq fun n hn => by
    have := fun e => none ⟨⟨n, hn⟩, e⟩
    simpa [LineSet.has] using this)

theorem LineSet.erase_zero (k : Line) : LineSet.erase 0#8 k = 0#8 := by simp [LineSet.erase]

theorem LineSet.erase_ne_zero {w : LineSet} (h : LineSet.erase w k ≠ 0#8) : w ≠ 0#8 :=
  fun e => h (by rw [e, LineSet.erase_zero])

/-- While a line waits there is a next waiter: the search goes round all eight lines. -/
theorem Pool.nextWaiter_of_waiters {p : Pool} (h : p.waiters ≠ 0#8) : ∃ k, p.nextWaiter = some k := by
  obtain ⟨k, waits⟩ := LineSet.exists_has h
  refine Option.isSome_iff_exists.mp (List.find?_isSome.mpr ⟨k, ?_, waits⟩)
  exact List.mem_map.mpr ⟨k - (p.lastGranted + 1), mem_allLines _, add_sub_cancel _ _⟩

/-- The number of lines that wait. -/
def LineSet.size (w : LineSet) : Nat := (Finset.univ.filter fun k => LineSet.has w k = true).card

theorem LineSet.size_le (w : LineSet) : LineSet.size w ≤ 8 :=
  (Finset.card_filter_le _ _).trans (by simp)

theorem LineSet.eq_zero_of_size {w : LineSet} (h : LineSet.size w = 0) : w = 0#8 := by
  by_contra ne
  obtain ⟨k, waits⟩ := LineSet.exists_has ne
  exact absurd (Finset.card_eq_zero.mp h)
    (Finset.ne_empty_of_mem (Finset.mem_filter.mpr ⟨Finset.mem_univ k, waits⟩))

theorem LineSet.size_erase {w : LineSet} (h : LineSet.has w k = true) : LineSet.size (LineSet.erase w k) + 1 = LineSet.size w := by
  have mem : k ∈ Finset.univ.filter fun k => LineSet.has w k = true := by simp [h]
  have out : (Finset.univ.filter fun j => LineSet.has (LineSet.erase w k) j = true) =
      (Finset.univ.filter fun j => LineSet.has w j = true).erase k := by
    ext j
    simp [LineSet.has_erase, and_comm]
  rw [LineSet.size, out, Finset.card_erase_of_mem mem]
  exact Nat.sub_add_cancel (Finset.card_pos.mpr ⟨k, mem⟩)

/-! ## Notices -/

theorem PoolServes.recordEvent (h : PoolServes s) {q : NoticeKind} {l : Option Line} {v : Option Addr} :
    PoolServes (recordEvent q l v s) :=
  ⟨h.1, fun waiting => ⟨(h.2 waiting).1, emits_recordEvent (h.2 waiting).2⟩⟩

theorem dropRef_pool (i : SlotIx) (s : State) : ∃ free : List SlotIx, free.length ≤ s.pool.free.length + 1 ∧
    (dropRef i s).pool = { s.pool with free := free } := by
  unfold dropRef
  dsimp only
  split
  · exact ⟨_, by simp, rfl⟩
  · exact ⟨_, Nat.le_succ _, rfl⟩

/-- An emission takes at most one slot, and gives back no more (R47, R168). -/
theorem emitNotice_pool (h : s.pool.free ≠ []) : ∃ free : List SlotIx, free.length ≤ s.pool.free.length ∧
    (emitNotice s).pool = { s.pool with free := free, noticeWaiting := false } := by
  obtain ⟨i, rest, e⟩ := List.exists_cons_of_ne_nil h
  rw [emitNotice_of_free e, State.modNotice_pool]
  obtain ⟨u, pool, same | dropped⟩ := routeNotice_pool i (s.noticeBuilt i rest)
  · rw [same]
    exact ⟨rest, by simp [e], rfl⟩
  · obtain ⟨free, length, result⟩ := dropRef_pool i u
    rw [pool] at length result
    change free.length ≤ rest.length + 1 at length
    rw [dropped, result, e]
    exact ⟨free, by simpa using length, rfl⟩

theorem PoolServes.emitNotice (h : PoolServes s) : PoolServes (emitNotice s) := by
  by_cases e : s.pool.free = []
  · rwa [emitNotice_of_none e]
  · obtain ⟨free, length, pool⟩ := emitNotice_pool e
    unfold PoolServes
    rw [pool]
    exact ⟨fun waiters => length.trans (h.1 waiters), fun e => nomatch e⟩

theorem PoolServes.emissionTest (h : PoolServes s) : PoolServes (emissionTest s) := by
  unfold Machine.emissionTest
  split
  · next emits =>
    split
    · exact h
    · split
      · next empty => exact ⟨h.1, fun _ => ⟨empty, emits⟩⟩
      · exact h.emitNotice
  · exact ⟨h.1, fun e => nomatch e⟩

theorem PoolServes.noteEvent (h : PoolServes s) {q : NoticeKind} {l : Option Line} {v : Option Addr} :
    PoolServes (noteEvent q l v s) := h.recordEvent.emissionTest

theorem PoolServes.countLine (h : PoolServes s) {c : LineCounter} : PoolServes (countLine k c s) := by
  unfold Machine.countLine
  dsimp only
  split
  · exact (h.modLine (k := k)).noteEvent
  · exact h.modLine

theorem PoolServes.countRelay (h : PoolServes s) {c : RelayCounter} : PoolServes (countRelay c s) := by
  unfold Machine.countRelay
  dsimp only
  split
  · exact PoolServes.noteEvent (s := s.bumpRelay c) h.modRoute
  · exact h.modRoute

/-! ## Grants and the service after a release -/

theorem grantTo_pool {rest : List SlotIx} (e : s.pool.free = i :: rest) :
    (grantTo k s).pool =
      { s.pool with free := rest, waiters := LineSet.erase s.pool.waiters k, lastGranted := k } ∧
    (grantTo k s).notice = s.notice := by
  unfold grantTo
  rw [allocate_of_free e]
  exact ⟨rfl, rfl⟩

theorem grantTo_of_none (e : s.pool.free = []) : grantTo k s = s := by
  unfold grantTo allocate
  rw [e]

/-- The half of `PoolServes` that concerns notices. -/
def NoticeServed (s : State) : Prop := s.pool.noticeWaiting = true → s.pool.free = [] ∧ s.notice.emits = true

theorem NoticeServed.grantTo (h : NoticeServed s) : NoticeServed (grantTo k s) := by
  rcases e : s.pool.free with _ | ⟨i, rest⟩
  · rwa [grantTo_of_none e]
  · obtain ⟨pool, notice⟩ := grantTo_pool (k := k) e
    unfold NoticeServed
    rw [pool, notice]
    exact fun waiting => by simpa [e] using (h waiting).1

theorem PoolServes.grantTo (h : PoolServes s) : PoolServes (grantTo k s) := by
  refine ⟨?_, NoticeServed.grantTo h.2⟩
  rcases e : s.pool.free with _ | ⟨i, rest⟩
  · rw [grantTo_of_none e]; exact h.1
  · rw [(grantTo_pool e).1]
    intro waiters
    have := h.1 (LineSet.erase_ne_zero waiters)
    rw [e] at this
    exact Nat.le_of_succ_le this

theorem PoolServes.grantOne (h : PoolServes s) : PoolServes (grantOne s) := by
  unfold Machine.grantOne
  split
  · split
    · exact h.grantTo
    · exact h
  · exact h

theorem grantOne_of_full (h : s.pool.canGrant = false) : grantOne s = s := by
  rw [Machine.grantOne, if_neg (by simp [h])]

/-- A grant that can be made serves one waiter. -/
theorem grantOne_size (h : s.pool.canGrant = true) : LineSet.size (grantOne s).pool.waiters + 1 = LineSet.size s.pool.waiters := by
  simp only [Pool.canGrant, Bool.and_eq_true, decide_eq_true_eq] at h
  obtain ⟨k, next⟩ := Pool.nextWaiter_of_waiters h.2
  obtain ⟨i, rest, e⟩ := List.exists_cons_of_length_pos (Nat.zero_lt_of_lt h.1)
  rw [grantOne, if_pos (by simp [Pool.canGrant, h]), next]
  dsimp only
  rw [(grantTo_pool e).1]
  exact LineSet.size_erase (Pool.has_of_nextWaiter next)

theorem Pool.canGrant_of_size {p : Pool} (h : LineSet.size p.waiters = 0) : p.canGrant = false := by
  simp [Pool.canGrant, LineSet.eq_zero_of_size h]

/-- As many grants as there are waiters leave nothing to grant. -/
theorem foldl_grantOne_full (xs : List Line) (s : State) (h : LineSet.size s.pool.waiters ≤ xs.length) :
    (xs.foldl (fun s _ => grantOne s) s).pool.canGrant = false := by
  induction xs generalizing s with
  | nil => exact Pool.canGrant_of_size (Nat.le_zero.mp h)
  | cons x xs ih =>
    rw [List.foldl_cons]
    cases can : s.pool.canGrant with
    | true =>
      have := grantOne_size can
      simp at h
      exact ih _ (by omega)
    | false =>
      rw [grantOne_of_full can]
      clear ih h
      induction xs with
      | nil => exact can
      | cons y ys ih => rwa [List.foldl_cons, grantOne_of_full can]

theorem grantWaiters_full (s : State) : (grantWaiters s).pool.canGrant = false :=
  foldl_grantOne_full allLines s (LineSet.size_le _)

theorem NoticeServed.grantWaiters (h : NoticeServed s) : NoticeServed (grantWaiters s) := by
  have grants (xs : List Line) (s : State) (h : NoticeServed s) :
      NoticeServed (xs.foldl (fun s _ => Machine.grantOne s) s) := by
    induction xs generalizing s with
    | nil => exact h
    | cons x xs ih =>
      refine ih _ ?_
      change NoticeServed (Machine.grantOne s)
      unfold Machine.grantOne
      split
      · split
        · exact h.grantTo
        · exact h
      · exact h
  exact grants allLines s h

theorem poolServes_of_full (full : s.pool.canGrant = false) (notice : NoticeServed s) : PoolServes s := by
  refine ⟨fun waiters => ?_, notice⟩
  by_contra free
  simp [Pool.canGrant, waiters, Nat.lt_of_not_le free] at full

/-- The grants of R45 leave no waiter that could be served. -/
theorem poolServes_grantWaiters (h : NoticeServed s) : PoolServes (grantWaiters s) :=
  poolServes_of_full (grantWaiters_full s) h.grantWaiters

/-- The service of R42 serves every request whose condition holds. -/
theorem poolServes_poolService (h : Asks s) : PoolServes (poolService s) := by
  refine poolServes_grantWaiters ?_
  unfold serveNotice
  split
  · next can =>
    obtain ⟨free, -, pool⟩ := emitNotice_pool can.2
    unfold NoticeServed
    rw [pool]
    exact fun e => nomatch e
  · next cannot => exact fun waiting => ⟨not_not.mp fun free => cannot ⟨waiting, free⟩, h waiting⟩

theorem PoolServes.serveNotice (h : PoolServes s) : PoolServes (serveNotice s) := by
  unfold Machine.serveNotice
  split
  · exact h.emitNotice
  · exact h

theorem PoolServes.releaseRef (h : PoolServes s) : PoolServes (releaseRef i s) :=
  poolServes_poolService ((Calm.refl s).dropRef.asks h.asks)

theorem PoolServes.requestReservation (h : PoolServes s) : PoolServes (requestReservation k s) := by
  unfold Machine.requestReservation
  split
  · exact h.grantTo
  · next busy =>
    refine ⟨fun _ => ?_, h.2⟩
    by_contra free
    exact busy ⟨Nat.lt_of_not_le free, not_not.mp fun waiters => free (h.1 waiters)⟩

theorem PoolServes.evaluatePool (h : PoolServes s) : PoolServes (evaluatePool s) := by
  have evaluated : PoolServes (s.modPool fun p => { p with state := p.evaluated }) := h
  unfold Machine.evaluatePool
  dsimp only
  split
  · exact evaluated.noteEvent
  · exact evaluated

/-! ## The rest of what follows an event -/

theorem PoolServes.admitNormal (h : PoolServes s) : PoolServes (admitNormal j i s).1 := by
  unfold Machine.admitNormal
  split
  · exact h.modLine
  · exact h.countLine

theorem PoolServes.returnFrame (h : PoolServes s) {r : Reason} : PoolServes (returnFrame r i s) :=
  poolServes_poolService ((Calm.refl s).makeReturn.routeReturn.asks h.asks)

theorem PoolServes.offerCopy (h : PoolServes s) : PoolServes (offerCopy i s j) := by
  unfold Machine.offerCopy
  dsimp only
  split
  · exact h.admitNormal.modSlot
  · exact h.admitNormal

theorem PoolServes.broadcast (h : PoolServes s) : PoolServes (broadcast k i s) := by
  unfold Machine.broadcast
  dsimp only
  split
  · exact h.countRelay.releaseRef
  · exact (PoolServes.foldl (fun _ _ h => h.offerCopy) _ (h.modSlot (i := i))).releaseRef

theorem PoolServes.acceptCommand (h : PoolServes s) : PoolServes (acceptCommand k i s) := by
  unfold Machine.acceptCommand
  split
  · exact h.countRelay.releaseRef
  · split
    · exact h.modAgent
    · exact h.countRelay.releaseRef

theorem PoolServes.routeReceived (h : PoolServes s) : PoolServes (routeReceived k i s).1 := by
  unfold Machine.routeReceived
  split
  · exact h.acceptCommand
  · exact h.broadcast
  · next j d _ =>
    have offered : PoolServes (Machine.admitNormal j i (s.modFrame i fun f => { f with dest := d })).1 :=
      PoolServes.admitNormal (s := s.modFrame i fun f => { f with dest := d }) h.modSlot
    dsimp only
    split
    · exact offered
    · dsimp only
      exact offered.releaseRef
  · next c _ =>
    dsimp only
    split
    · exact h.countRelay.noteEvent.releaseRef
    · exact h.countRelay.releaseRef

theorem PoolServes.noteReplyGone (h : PoolServes s) : PoolServes (noteReplyGone i s) := by
  unfold Machine.noteReplyGone
  split
  · exact h.modAgent
  · exact h

theorem PoolServes.releaseReply (h : PoolServes s) : PoolServes (releaseReply i s) :=
  (PoolServes.noteReplyGone (s := s.modAgent Agent.letGo) h.modAgent).releaseRef

theorem PoolServes.offerReply (h : PoolServes s) : PoolServes (offerReply s) := by
  unfold Machine.offerReply
  split
  · exact h
  · split
    · exact h.releaseReply
    · split
      · split
        · exact h.of_eq rfl rfl
        · exact h.modAgent
      · exact h.releaseReply

theorem PoolServes.giveRoom (h : PoolServes s) : PoolServes (giveRoom s) := by
  unfold Machine.giveRoom
  split
  · exact h.offerReply
  · exact h

theorem PoolServes.dropHeldReply (h : PoolServes s) : PoolServes (dropHeldReply k s) := by
  unfold Machine.dropHeldReply
  split
  · exact h
  · split
    · exact h.releaseReply
    · exact h

theorem PoolServes.takeCommand (h : PoolServes s) : PoolServes (takeCommand s) := by
  unfold Machine.takeCommand
  split
  · split
    · exact h
    · exact h.modAgent
  · exact h

theorem PoolServes.flushLine {p : Bool} (h : PoolServes s) : PoolServes (flushLine k p s) := by
  have dropped := (Calm.refl (s.modLine k (LineRec.emptied p))).flushFrames (s.line k)
  have returned := Calm.foldl (f := fun s i => Machine.routeReturn i s) (fun _ _ h => h.routeReturn)
    (flushFrames (s.line k) (s.modLine k (LineRec.emptied p))).2 dropped
  unfold Machine.flushLine
  exact (poolServes_poolService (returned.asks h.asks)).evaluatePool

/-! ## Selections and turns -/

theorem PoolServes.firstSources (h : PoolServes s) (e : firstSources k s = some t) : PoolServes t := by
  unfold Machine.firstSources at e
  dsimp only at e
  split at e
  · cases e; exact h.of_eq rfl rfl
  · cases e; exact h.of_eq rfl rfl
  · cases e; exact h.of_eq rfl rfl
  · cases e
  · cases e
  · cases e

theorem PoolServes.selectDirect (h : PoolServes s) : PoolServes (selectDirect k s) := by
  unfold Machine.selectDirect
  split
  · next t e => exact h.firstSources e
  · split
    · exact h.of_eq rfl rfl
    · exact h

theorem PoolServes.removeAbsentHead (h : PoolServes s) : PoolServes (removeAbsentHead k i s) := by
  have removed : PoolServes (s.modLine k fun l => { l with normalQ := l.normalQ.tail }) := h.modLine
  unfold Machine.removeAbsentHead
  dsimp only
  split
  · exact removed.returnFrame
  · exact removed.releaseRef.countLine

theorem PoolServes.serveNormal (n : Nat) (h : PoolServes s) : PoolServes (serveNormal k n s).1 := by
  induction n generalizing s with
  | zero => exact h
  | succ n ih =>
    rw [Machine.serveNormal]
    split
    · exact h
    · split
      · exact ih h.removeAbsentHead
      · exact h.of_eq rfl rfl

theorem PoolServes.pollSearch (n : Nat) (h : PoolServes s) : PoolServes (pollSearch k n s) := by
  induction n generalizing s with
  | zero => exact h
  | succ n ih =>
    rw [Machine.pollSearch]
    split
    · exact h
    · split
      · exact h.of_eq rfl rfl
      · exact ih h.modLine

theorem PoolServes.takeTurn (h : PoolServes s) : PoolServes (takeTurn k s) := by
  unfold Machine.takeTurn
  split
  · next t e => exact h.firstSources e
  · split
    · have served := h.serveNormal (k := k) (serveFuel (s.line k))
      dsimp only
      split
      · exact served
      · exact served.pollSearch _
    · exact h.pollSearch _

theorem PoolServes.attend (h : PoolServes s) : PoolServes (attend s k) := by
  unfold Machine.attend
  split
  · exact h.selectDirect
  · split
    · exact h.takeTurn
    · exact h

theorem PoolServes.attendRounds (n : Nat) (h : PoolServes s) : PoolServes (attendRounds n s) := by
  induction n generalizing s with
  | zero => exact h
  | succ n ih =>
    rw [Machine.attendRounds]
    split
    · exact h
    · exact ih (PoolServes.foldl (fun _ _ h => h.attend) _ h)

theorem PoolServes.settle (h : PoolServes s) : PoolServes (settle s) :=
  ((h.takeCommand.attendRounds _).evaluatePool).attendRounds _

theorem PoolServes.turnAfterSet (h : PoolServes s) {old : LineRec} : PoolServes (turnAfterSet k old s) := by
  rcases turnAfterSet_cases s k old with ⟨e, -⟩ | ⟨e, -⟩
  · rw [e]; exact h.takeTurn
  · rwa [e]

end Sys2Proof.Machine
end

section
/-! PROOFS. What the events of lines and timers can do (`Traffic`): the globals and every line's configuration
stand, a line stays OFF or stays up, an idle OFF line stays idle, lists keep their bounds and their entries stay
unique, the notice unit stays consistent and the pool serves what it can. -/

namespace Sys2Proof.Machine

variable {a s t : State} {i : SlotIx} {j k : Line}

/-! ## The relation -/

/-- The line holds nothing but perhaps a reservation. -/
def LineRec.bare (l : LineRec) : Prop := ({ l with reservation := none } : LineRec).holdsNothing

theorem LineRec.holdsNothing_iff (l : LineRec) : l.holdsNothing ↔ l.bare ∧ l.reservation = none := by
  simp only [LineRec.bare, LineRec.holdsNothing]
  tauto

/-- What an event can do to a line's settings and lists. -/
structure LineTraffic (l l' : LineRec) : Prop where
  config : l'.config = l.config
  off : l'.state = .off ↔ l.state = .off
  normalQ : l'.normalQ.length ≤ max l.normalQ.length l.config.quota
  urgentQ : l'.urgentQ.length ≤ max l.urgentQ.length 4
  pendingConf : l'.pendingConf.length ≤ max l.pendingConf.length 4
  memo : l'.memo.length ≤ max l.memo.length 8
  sources : (l.memo.map MemoEntry.src).Nodup → (l'.memo.map MemoEntry.src).Nodup
  nodes : l'.pollList.map PollEntry.node = l.pollList.map PollEntry.node

/-- What an event can do to the state. -/
structure Traffic (s t : State) : Prop where
  globals : t.globals = s.globals
  line : ∀ k, LineTraffic (s.line k) (t.line k)
  idle : ∀ k, (s.line k).state = .off → (s.line k).bare → (t.line k).bare
  vacant : ∀ k, (s.line k).state = .off → LineSet.has s.pool.waiters k = false →
    LineSet.has t.pool.waiters k = false ∧ (t.line k).reservation = (s.line k).reservation
  agentQ : t.agent.queue.length ≤ max s.agent.queue.length 4
  notices : NoticesConsistent s → NoticesConsistent t
  serves : PoolServes s → PoolServes t

/-- The line is up, or holds something. -/
def Busy (a : State) (k : Line) : Prop := (a.line k).state = .off → ¬ (a.line k).bare

theorem Busy.of_up (up : (a.line k).state ≠ .off) : Busy a k := fun off => absurd off up

theorem LineTraffic.refl (l : LineRec) : LineTraffic l l :=
  ⟨rfl, Iff.rfl, Nat.le_max_left _ _, Nat.le_max_left _ _, Nat.le_max_left _ _, Nat.le_max_left _ _, id, rfl⟩

theorem LineTraffic.trans {l l' l'' : LineRec} (h : LineTraffic l l') (g : LineTraffic l' l'') :
    LineTraffic l l'' where
  config := g.config.trans h.config
  off := g.off.trans h.off
  normalQ := by have := h.normalQ; have := g.normalQ; rw [h.config] at this; omega
  urgentQ := by have := h.urgentQ; have := g.urgentQ; omega
  pendingConf := by have := h.pendingConf; have := g.pendingConf; omega
  memo := by have := h.memo; have := g.memo; omega
  sources e := g.sources (h.sources e)
  nodes := g.nodes.trans h.nodes

theorem Traffic.refl (s : State) : Traffic s s :=
  ⟨rfl, fun _ => LineTraffic.refl _, fun _ _ h => h, fun _ _ h => ⟨h, rfl⟩, Nat.le_max_left _ _, id, id⟩

theorem Traffic.trans {u : State} (h : Traffic s t) (g : Traffic t u) : Traffic s u where
  globals := g.globals.trans h.globals
  line k := (h.line k).trans (g.line k)
  idle k off bare := g.idle k ((h.line k).off.mpr off) (h.idle k off bare)
  vacant k off none := by
    obtain ⟨none', kept⟩ := h.vacant k off none
    obtain ⟨none'', kept'⟩ := g.vacant k ((h.line k).off.mpr off) none'
    exact ⟨none'', kept'.trans kept⟩
  agentQ := by have := h.agentQ; have := g.agentQ; omega
  notices e := g.notices (h.notices e)
  serves e := g.serves (h.serves e)

/-- A line whose port view, engine view and queues stand is as bare as it was. -/
theorem LineRec.bare_of_eq {l l' : LineRec} (port : l'.port = l.port) (engine : l'.engine = l.engine)
    (normalQ : l'.normalQ = l.normalQ) (urgentQ : l'.urgentQ = l.urgentQ) (bare : l.bare) : l'.bare := by
  simp only [LineRec.port, PortView.mk.injEq] at port
  simp only [LineRec.engine, EngineView.mk.injEq] at engine
  simp only [LineRec.bare, LineRec.holdsNothing] at bare ⊢
  simp_all

theorem LineCalm.traffic {w : Bool} {l l' : LineRec} (h : LineCalm w l l') : LineTraffic l l' := by
  have port := h.port
  simp only [LineRec.port, PortView.mk.injEq] at port
  obtain ⟨config, state, -, -, -, -, -, -, -, -, -, -, memo, pollList, -, -⟩ := port
  exact ⟨config, by rw [state], h.normalQ, h.urgentQ, h.pendingConf.trans (Nat.le_max_left _ _),
    by rw [memo]; exact Nat.le_max_left _ _, by rw [memo]; exact id, by rw [pollList]⟩

/-- The consequences of an event, in which the pool serves what it can, are traffic. -/
theorem Calm.traffic (h : Calm s t) (serves : PoolServes s → PoolServes t) : Traffic s t where
  globals := h.globals
  line k := (h.line k).traffic
  idle k off bare := by
    obtain ⟨engine, normalQ, urgentQ⟩ := (h.line k).resting (by rw [off]; decide)
    exact LineRec.bare_of_eq (h.line k).port engine normalQ urgentQ bare
  vacant k _ none :=
    ⟨Bool.eq_false_iff.mpr fun e => by simp [h.waiters k e] at none, (h.line k).reservation none⟩
  agentQ := h.agentQ
  notices := h.notices
  serves := serves

theorem Traffic.calm (h : Traffic a s) (next : Calm s t) (serves : PoolServes s → PoolServes t) : Traffic a t :=
  h.trans (next.traffic serves)

theorem Traffic.state_ne_off (h : Traffic a s) (up : (a.line k).state ≠ .off) : (s.line k).state ≠ .off :=
  fun off => up ((h.line k).off.mp off)

/-! ## Updates of a line -/

/-- A line that is up, or that held something, is changed. -/
theorem Traffic.modLine (h : Traffic a s) (busy : Busy a k) {f : LineRec → LineRec}
    (line : LineTraffic (s.line k) (f (s.line k)))
    (reservation : (s.line k).state = .off → (f (s.line k)).reservation = (s.line k).reservation) :
    Traffic a (s.modLine k f) where
  globals := h.globals
  line j := by
    rw [State.line_modLine]
    split
    · next e => exact e ▸ (h.line k).trans line
    · exact h.line j
  idle j off bare := by
    rw [State.line_modLine]
    split
    · next e => subst e; exact absurd bare (busy off)
    · exact h.idle j off bare
  vacant j off none := by
    obtain ⟨none', kept⟩ := h.vacant j off none
    refine ⟨none', ?_⟩
    rw [State.line_modLine]
    split
    · next e => subst e; exact (reservation ((h.line _).off.mpr off)).trans kept
    · exact kept
  agentQ := h.agentQ
  notices := h.notices
  serves e := (h.serves e).modLine

/-- The lists and the settings of a line. -/
structure LineLists where
  config : LineConfig
  normalQ : List SlotIx
  urgentQ : List SlotIx
  pendingConf : List ConfEntry
  memo : List MemoEntry
  nodes : List Addr

/-- The lists of a line record. -/
def LineRec.lists (l : LineRec) : LineLists :=
  ⟨l.config, l.normalQ, l.urgentQ, l.pendingConf, l.memo, l.pollList.map PollEntry.node⟩

theorem LineTraffic.of_lists {l l' : LineRec} (lists : l'.lists = l.lists) (off : l'.state = .off ↔ l.state = .off) :
    LineTraffic l l' := by
  simp only [LineRec.lists, LineLists.mk.injEq] at lists
  obtain ⟨config, normalQ, urgentQ, pendingConf, memo, nodes⟩ := lists
  exact ⟨config, off, by rw [normalQ]; exact Nat.le_max_left _ _, by rw [urgentQ]; exact Nat.le_max_left _ _,
    by rw [pendingConf]; exact Nat.le_max_left _ _, by rw [memo]; exact Nat.le_max_left _ _,
    by rw [memo]; exact id, nodes⟩

/-- A busy line is changed outside its lists, line state and reservation. -/
theorem Traffic.modBusy (h : Traffic a s) (busy : Busy a k) {f : LineRec → LineRec}
    (lists : (f (s.line k)).lists = (s.line k).lists) (state : (f (s.line k)).state = (s.line k).state)
    (reservation : (f (s.line k)).reservation = (s.line k).reservation) : Traffic a (s.modLine k f) :=
  h.modLine busy (LineTraffic.of_lists lists (by rw [state])) fun _ => reservation

/-- A line that is up is changed outside its lists, and stays up. -/
theorem Traffic.modUp (h : Traffic a s) (up : (a.line k).state ≠ .off) {f : LineRec → LineRec}
    (lists : (f (s.line k)).lists = (s.line k).lists) (state : (f (s.line k)).state ≠ .off) :
    Traffic a (s.modLine k f) :=
  h.modLine (Busy.of_up up) (LineTraffic.of_lists lists (iff_of_false state (h.state_ne_off up)))
    fun off => absurd off (h.state_ne_off up)

/-! ## Calm operations as traffic -/

theorem Traffic.countLine (h : Traffic a s) {c : LineCounter} : Traffic a (countLine k c s) :=
  h.calm (Calm.refl s).countLine fun h => h.countLine

theorem Traffic.countRelay (h : Traffic a s) {c : RelayCounter} : Traffic a (countRelay c s) :=
  h.calm (Calm.refl s).countRelay fun h => h.countRelay

theorem Traffic.noteEvent (h : Traffic a s) {q : NoticeKind} {l : Option Line} {v : Option Addr} :
    Traffic a (noteEvent q l v s) := h.calm (Calm.refl s).noteEvent fun h => h.noteEvent

theorem Traffic.emissionTest (h : Traffic a s) : Traffic a (emissionTest s) :=
  h.calm (Calm.refl s).emissionTest fun h => h.emissionTest

theorem Traffic.releaseRef (h : Traffic a s) : Traffic a (releaseRef i s) :=
  h.calm (Calm.refl s).releaseRef fun h => h.releaseRef

theorem Traffic.returnFrame (h : Traffic a s) {r : Reason} : Traffic a (returnFrame r i s) :=
  h.calm (Calm.refl s).returnFrame fun h => h.returnFrame

theorem Traffic.modSlot (h : Traffic a s) {f : Slot → Slot} : Traffic a (s.modSlot i f) :=
  h.calm (Calm.refl s).modSlot fun h => h.modSlot

theorem Traffic.offerReply (h : Traffic a s) : Traffic a (offerReply s) :=
  h.calm (Calm.refl s).offerReply fun h => h.offerReply

theorem Traffic.noteReplyGone (h : Traffic a s) : Traffic a (noteReplyGone i s) :=
  h.calm (Calm.refl s).noteReplyGone fun h => h.noteReplyGone

theorem Traffic.routeReceived (h : Traffic a s) : Traffic a (routeReceived k i s).1 :=
  h.calm (Calm.refl s).routeReceived fun h => h.routeReceived

/-- A line that is up asks for a reservation. -/
theorem Traffic.requestReservation (h : Traffic a s) (up : (a.line k).state ≠ .off) :
    Traffic a (requestReservation k s) := by
  have asks : Traffic s (Machine.requestReservation k s) := by
    have up := h.state_ne_off up
    have line (j : Line) : LineCalm true (s.line j) ((Machine.requestReservation k s).line j) ∧
        ((s.line j).state = .off → LineSet.has s.pool.waiters j = false →
          LineSet.has (Machine.requestReservation k s).pool.waiters j = false ∧
            (Machine.requestReservation k s).line j = s.line j) := by
      unfold Machine.requestReservation
      split
      · next free =>
        obtain ⟨i, rest, e⟩ := List.exists_cons_of_length_pos (Nat.zero_lt_of_lt free.1)
        have granted : (grantTo k s).line j =
            if j = k then { s.line j with reservation := some i } else s.line j := by
          unfold grantTo
          rw [allocate_of_free e]
          exact State.line_modLine _ _ _ _
        rw [granted, (grantTo_pool e).1]
        by_cases same : j = k
        · subst same
          rw [if_pos rfl]
          exact ⟨⟨rfl, fun _ => ⟨rfl, rfl, rfl⟩, Nat.le_max_left _ _, Nat.le_max_left _ _, Nat.le_refl _,
            fun e => nomatch e⟩, fun off => absurd off up⟩
        · rw [if_neg same]
          exact ⟨LineCalm.refl _ _, fun _ none => ⟨by rw [LineSet.has_erase, none]; rfl, rfl⟩⟩
      · refine ⟨LineCalm.refl _ _, fun off none => ⟨?_, rfl⟩⟩
        rw [State.modPool_pool, LineSet.has_insert, none]
        exact decide_eq_false fun same => up (same ▸ off)
    exact
      { globals := (requestReservation_steady k s).globals
        line := fun j => (line j).1.traffic
        idle := fun j off bare => by
          obtain ⟨engine, normalQ, urgentQ⟩ := (line j).1.resting (by rw [off]; decide)
          exact LineRec.bare_of_eq (line j).1.port engine normalQ urgentQ bare
        vacant := fun j off none => by
          obtain ⟨none', kept⟩ := (line j).2 off none
          exact ⟨none', by rw [kept]⟩
        agentQ := by
          rw [requestReservation_agent]
          exact Nat.le_max_left _ _
        notices := fun h => by
          refine h.of_notice ?_
          unfold Machine.requestReservation
          split
          · next free =>
            obtain ⟨i, rest, e⟩ := List.exists_cons_of_length_pos (Nat.zero_lt_of_lt free.1)
            exact (grantTo_pool e).2
          · rfl
        serves := fun h => h.requestReservation }
  exact h.trans asks

/-! ## Confirmed delivery and presence -/

theorem Traffic.oweConf (h : Traffic a s) (up : (a.line k).state ≠ .off) {e : ConfEntry} :
    Traffic a (oweConf k e s) := by
  unfold Machine.oweConf
  split
  · next room =>
    refine h.modLine (Busy.of_up up) { LineTraffic.refl _ with pendingConf := ?_ } fun _ => rfl
    simp [Config.pendingConfCap] at room ⊢
    omega
  · exact h.countLine

theorem length_memoAccept (m : List MemoEntry) (src : Addr) (q : BitVec 4) :
    (memoAccept m src q).length ≤ max m.length 8 := by
  have le := List.length_filter_le (fun e : MemoEntry => decide (e.src ≠ src)) m
  unfold memoAccept
  dsimp only
  split
  · simp only [List.length_append, List.length_tail, List.length_singleton]; omega
  · next room =>
    simp only [Config.memoCap, not_and, Nat.not_le] at room
    simp only [List.length_append, List.length_singleton]
    omega

/-- The accepted source stands once in the memo: its old entry gives way, or it had none (R104). -/
theorem nodup_memoAccept {m : List MemoEntry} (src : Addr) (q : BitVec 4) (h : (m.map MemoEntry.src).Nodup) :
    ((memoAccept m src q).map MemoEntry.src).Nodup := by
  have joins (kept : List MemoEntry) (sub : kept.Sublist m) (other : ∀ e ∈ kept, e.src ≠ src) :
      ((kept ++ [({ src := src, seq := q } : MemoEntry)]).map MemoEntry.src).Nodup := by
    rw [List.map_append, List.nodup_append]
    refine ⟨h.sublist (sub.map _), List.nodup_singleton _, fun x member y single => ?_⟩
    obtain ⟨e, kept, rfl⟩ := List.mem_map.mp member
    rw [List.mem_singleton.mp single]
    exact other e kept
  unfold memoAccept
  dsimp only
  split
  · next full =>
    refine joins _ (List.tail_sublist m) fun e member => ?_
    exact of_decide_eq_true (List.length_filter_eq_length_iff.mp full.1 e (List.mem_of_mem_tail member))
  · exact joins _ List.filter_sublist fun e member => of_decide_eq_true (List.mem_filter.mp member).2

theorem Traffic.acceptConfirmed (h : Traffic a s) (up : (a.line k).state ≠ .off) {f : Frame} :
    Traffic a (acceptConfirmed k f s) :=
  (h.modLine (Busy.of_up up) { LineTraffic.refl _ with
      memo := length_memoAccept _ _ _, sources := nodup_memoAccept _ _ } fun _ => rfl).oweConf up

theorem Traffic.clearAwait (h : Traffic a s) (busy : Busy a k) : Traffic a (clearAwait k s) :=
  h.modBusy busy rfl rfl rfl

theorem Traffic.offerConf (h : Traffic a s) (busy : Busy a k) {c : Frame} : Traffic a (offerConf k c s) := by
  unfold Machine.offerConf
  split
  · split
    · exact (h.clearAwait busy).releaseRef
    · exact h.countLine
  · exact h.countLine

theorem Traffic.awaitExpiry (h : Traffic a s) (busy : Busy a k) : Traffic a (awaitExpiry k s) := by
  unfold Machine.awaitExpiry
  split
  · split
    · exact ((h.modSlot).modBusy busy rfl rfl rfl).countLine
    · exact (h.clearAwait busy).countLine.returnFrame
  · exact h
  · exact h
  · exact h

theorem Traffic.returnAbsentAwait (h : Traffic a s) (busy : Busy a k) {node : Addr} :
    Traffic a (returnAbsentAwait k node s) := by
  have returned (i : SlotIx) : Traffic a
      (if (s.frame i).dest = node then Machine.returnFrame .absent i (Machine.clearAwait k s) else s) := by
    split
    · exact (h.clearAwait busy).returnFrame
    · exact h
  unfold Machine.returnAbsentAwait
  split
  · exact returned _
  · exact returned _
  · exact h
  · exact h

theorem nodes_updateEntry (node : Addr) {f : PollEntry → PollEntry} (keeps : ∀ e, (f e).node = e.node)
    (es : List PollEntry) : (updateEntry node f es).map PollEntry.node = es.map PollEntry.node := by
  rw [updateEntry, List.map_map]
  refine List.map_congr_left fun e _ => ?_
  simp only [Function.comp]
  split
  · exact keeps e
  · rfl

theorem PollEntry.afterMiss_node (limit : Nat) (e : PollEntry) : (e.afterMiss limit).node = e.node := by
  unfold PollEntry.afterMiss; split <;> rfl

/-- A line's poll entries are changed but for their nodes. -/
theorem Traffic.modEntries (h : Traffic a s) (busy : Busy a k) {f : LineRec → List PollEntry}
    (nodes : (f (s.line k)).map PollEntry.node = (s.line k).pollList.map PollEntry.node) :
    Traffic a (s.modLine k fun l => { l with pollList := f l }) :=
  h.modBusy busy (by simp [LineRec.lists, nodes]) rfl rfl

theorem Traffic.presenceMiss (h : Traffic a s) (busy : Busy a k) {node : Addr} :
    Traffic a (presenceMiss k node s) := by
  have missed := h.modEntries busy
    (f := fun l => updateEntry node (PollEntry.afterMiss l.config.missLimit) l.pollList)
    (nodes_updateEntry node (PollEntry.afterMiss_node _) _)
  unfold Machine.presenceMiss
  dsimp only
  split
  · exact h
  · split
    · exact missed.noteEvent.returnAbsentAwait busy
    · exact missed

theorem Traffic.presenceGood (h : Traffic a s) (busy : Busy a k) {node : Addr} :
    Traffic a (presenceGood k node s) := by
  have found := h.modEntries busy (f := fun l => updateEntry node PollEntry.reset l.pollList)
    (nodes_updateEntry node (f := PollEntry.reset) (fun _ => rfl) _)
  unfold Machine.presenceGood
  dsimp only
  split
  · exact h
  · split
    · exact found.noteEvent
    · exact found

theorem Traffic.closeWindow (h : Traffic a s) (busy : Busy a k) : Traffic a (closeWindow k s) :=
  h.modBusy busy rfl rfl rfl

theorem Traffic.openWindow (h : Traffic a s) (busy : Busy a k) {o : Origin} {node : Addr} :
    Traffic a (openWindow k o node s) := h.modBusy busy rfl rfl rfl

theorem Traffic.damagedReply (h : Traffic a s) (busy : Busy a k) : Traffic a (damagedReply k s) := by
  unfold Machine.damagedReply
  split
  · exact (h.closeWindow busy).awaitExpiry busy
  · exact h.closeWindow busy
  · exact h
  · exact h

/-! ## Reception -/

theorem Traffic.passToRoute (h : Traffic a s) (up : (a.line k).state ≠ .off) : Traffic a (passToRoute k i s) := by
  have taken : Traffic a (s.modLine k fun l => { l with reservation := none }) :=
    h.modUp up rfl (h.state_ne_off up)
  unfold Machine.passToRoute
  dsimp only
  refine Traffic.requestReservation ?_ up
  split
  · exact taken.routeReceived.acceptConfirmed up
  · exact taken.routeReceived

theorem Traffic.firstLook (h : Traffic a s) (up : (a.line k).state ≠ .off) {inWindow : Bool} {f : Frame} :
    Traffic a (firstLook k inWindow f s).1 := by
  unfold Machine.firstLook
  split
  · exact h.offerConf (Busy.of_up up)
  · exact h.countLine
  · dsimp only
    split
    · exact h
    · exact h.countLine
  · split
    · exact h.countLine.oweConf up
    · exact h
  · exact h
  · exact h
  · exact h
  · exact h

theorem Traffic.lookAndRoute (h : Traffic a s) (up : (a.line k).state ≠ .off) :
    Traffic a (lookAndRoute k i s) := by
  have looked := h.firstLook (k := k) (inWindow := false) (f := s.frame i) up
  unfold Machine.lookAndRoute
  dsimp only
  split
  · exact looked
  · exact looked.passToRoute up

theorem Traffic.processReply (h : Traffic a s) (up : (a.line k).state ≠ .off) {o : Origin} {node : Addr} :
    Traffic a (processReply k i o node s) := by
  have busy := Busy.of_up up
  have route (u : State) (hu : Traffic a u) : Traffic a
      (match (Machine.firstLook k true (s.frame i) u).2 with
        | .consumed => match o with
          | .data => Machine.awaitExpiry k (Machine.firstLook k true (s.frame i) u).1
          | .poll => (Machine.firstLook k true (s.frame i) u).1
        | .passed => Machine.passToRoute k i (match o with
          | .data => Machine.awaitExpiry k (Machine.firstLook k true (s.frame i) u).1
          | .poll => (Machine.firstLook k true (s.frame i) u).1)) := by
    have looked := hu.firstLook (k := k) (inWindow := true) (f := s.frame i) up
    cases o <;> cases (Machine.firstLook k true (s.frame i) u).2 <;> dsimp only
    · exact looked
    · exact looked.passToRoute up
    · exact looked.awaitExpiry busy
    · exact (looked.awaitExpiry busy).passToRoute up
  have closed := h.closeWindow busy
  have settled : Traffic a (if (s.frame i).src = node then Machine.presenceGood k node (Machine.closeWindow k s)
      else match o with
        | .poll => Machine.presenceMiss k node (Machine.closeWindow k s)
        | .data => Machine.closeWindow k s) := by
    split
    · exact closed.presenceGood busy
    · cases o
      · exact closed.presenceMiss busy
      · exact closed
  have routed := route _ settled
  unfold Machine.processReply
  cases o <;> exact routed

theorem Traffic.decideFrame (h : Traffic a s) (up : (a.line k).state ≠ .off) : Traffic a (decideFrame k i s) := by
  unfold Machine.decideFrame
  split
  · exact h.countRelay.damagedReply (Busy.of_up up)
  · split
    · split
      · exact h.processReply up
      · exact h.countLine
      · exact h.countLine
    · exact h.lookAndRoute up
    · exact h.lookAndRoute up

theorem Traffic.toHunt (h : Traffic a s) (busy : Busy a k) : Traffic a (toHunt k s) := h.modBusy busy rfl rfl rfl

theorem Traffic.abandonFrame (h : Traffic a s) (busy : Busy a k) {c : LineCounter} :
    Traffic a (abandonFrame k c s) := ((h.toHunt busy).countLine).damagedReply busy

theorem Traffic.receiveComplete (h : Traffic a s) (up : (a.line k).state ≠ .off) {good : Bool} :
    Traffic a (receiveComplete k i good s) := by
  unfold Machine.receiveComplete
  split
  · exact (h.toHunt (Busy.of_up up)).countLine.decideFrame up
  · exact h.abandonFrame (Busy.of_up up)

theorem Traffic.breakCharacter (h : Traffic a s) (busy : Busy a k) : Traffic a (breakCharacter k s) := by
  have broken : Traffic a (s.modLine k fun l =>
      { l with rx := { l.rx with brk := true }, faultTimer := some Config.faultMs }) := h.modBusy busy rfl rfl rfl
  unfold Machine.breakCharacter
  dsimp only
  split
  · exact broken.abandonFrame busy
  · exact broken.countLine

theorem windowLead_keeps (l : LineRec) : (windowLead l).lists = l.lists ∧ (windowLead l).state = l.state ∧
    (windowLead l).reservation = l.reservation := by
  unfold windowLead; split <;> exact ⟨rfl, rfl, rfl⟩

theorem Traffic.takeLead (h : Traffic a s) (busy : Busy a k) : Traffic a (takeLead k s) := by
  obtain ⟨lists, state, reservation⟩ := windowLead_keeps (s.line k)
  refine h.modBusy busy ?_ ?_ ?_ <;> dsimp only <;> split
  · exact lists
  · exact lists
  · exact state
  · exact state
  · exact reservation
  · exact reservation

theorem Traffic.storeByte (h : Traffic a s) (up : (a.line k).state ≠ .off) {b : Byte} :
    Traffic a (storeByte k b s) := by
  unfold Machine.storeByte
  split
  · exact h
  · next i _ =>
    have stored : Traffic a ((s.modFrame i fun _ => ((s.line k).rx.takeByte (s.frame i) b).2.1).modLine k fun l =>
        { l with rx := { ((s.line k).rx.takeByte (s.frame i) b).1 with gap := some l.config.gapLimit } }) :=
      Traffic.modBusy (s := s.modFrame i _) h.modSlot (Busy.of_up up) rfl rfl rfl
    dsimp only
    split
    · exact stored
    · exact stored.abandonFrame (Busy.of_up up)
    · exact stored.receiveComplete up

theorem Traffic.takeChar (h : Traffic a s) (up : (a.line k).state ≠ .off) {c : RxChar} :
    Traffic a (takeChar k c s) := by
  have ended : Traffic a (s.setLine k ((s.line k).afterChar c.stop)) :=
    h.modBusy (f := fun l => l.afterChar c.stop) (Busy.of_up up) rfl rfl rfl
  have fails (e : classify (s.line k).config.parity c = .framing ∨ classify (s.line k).config.parity c = .parity) :
      Traffic a (Machine.takeChar k c s) := by
    rw [takeChar_error e]
    split
    · exact ended.abandonFrame (Busy.of_up up)
    · exact ended
  cases class_ : classify (s.line k).config.parity c with
  | brk => rw [takeChar_brk class_]; exact ended.breakCharacter (Busy.of_up up)
  | framing => exact fails (.inl class_)
  | parity => exact fails (.inr class_)
  | good =>
    rw [takeChar_good class_]
    split
    · exact ended.storeByte up
    · split
      · exact ended.takeLead (Busy.of_up up)
      · exact ended

theorem Traffic.startChar (h : Traffic a s) (busy : Busy a k) : Traffic a (startChar k s) :=
  h.modBusy busy rfl rfl rfl

theorem Traffic.quietExpiry (h : Traffic a s) (busy : Busy a k) : Traffic a (quietExpiry k s) := by
  unfold Machine.quietExpiry
  split
  · exact h.modBusy busy rfl rfl rfl
  · exact h.abandonFrame busy

/-! ## Transmission -/

theorem Traffic.startAwait (h : Traffic a s) (busy : Busy a k) : Traffic a (startAwait k i s) := by
  have waits : Traffic a (s.modLine k fun l => { l with await := .waiting i }) := h.modBusy busy rfl rfl rfl
  unfold Machine.startAwait
  dsimp only
  split
  · exact waits.openWindow busy
  · exact waits.modBusy busy rfl rfl rfl
  · exact waits

theorem Traffic.disposeTx (h : Traffic a s) (busy : Busy a k) {x : TxItem} : Traffic a (disposeTx k x s) := by
  unfold Machine.disposeTx
  split
  · exact h
  · exact h.openWindow busy
  · exact h.noteReplyGone.releaseRef
  · split
    · exact h.startAwait busy
    · exact h.releaseRef
  · split
    · exact h.releaseRef.startAwait busy
    · exact h.releaseRef
    · exact h.releaseRef
    · exact h.releaseRef

theorem Traffic.completeTx (h : Traffic a s) (busy : Busy a k) {x : TxItem} : Traffic a (completeTx k x s) :=
  Traffic.disposeTx (Traffic.modBusy h.countLine busy rfl rfl rfl) busy

theorem LineRec.startTurnaround_keeps (l : LineRec) : l.startTurnaround.lists = l.lists ∧
    l.startTurnaround.state = l.state ∧ l.startTurnaround.reservation = l.reservation := by
  obtain ⟨w, e⟩ := l.startTurnaround_eq
  rw [e]
  exact ⟨rfl, rfl, rfl⟩

theorem Traffic.windowExpiry (h : Traffic a s) (busy : Busy a k) : Traffic a (windowExpiry k s) := by
  have missed (node : Addr) : Traffic a (Machine.presenceMiss k node (Machine.countLine k .pollMiss
      ((Machine.closeWindow k s).modLine k LineRec.startTurnaround))) := by
    obtain ⟨lists, state, reservation⟩ := ((Machine.closeWindow k s).line k).startTurnaround_keeps
    exact (((h.closeWindow busy).modBusy busy lists state reservation).countLine).presenceMiss busy
  unfold Machine.windowExpiry
  split
  · next o node _ =>
    cases o
    · exact missed node
    · exact (missed node).awaitExpiry busy
  · exact h
  · exact h

/-! ## Flushes, breaks and the notice timer -/

/-- A line's record after the steps of a flush that concern it alone, field by field (R85, R126). -/
theorem LineRec.emptied_eq (p : Bool) (l : LineRec) :
    l.emptied p =
      { l with
        rx := { l.rx with phase := if l.state = .active then .hunt else .stopped, gap := none, quiet := none }
        turnaround :=
          if l.tp.isSome = true ∧ l.config.mode = .polled then
            (if l.config.turnaround = 0 then none else some l.config.turnaround)
          else l.turnaround
        tp := none
        normalQ := []
        urgentQ := []
        await := .empty
        confirmTimer := none
        pendingConf := []
        memo := []
        pollList := if p then l.pollList.map PollEntry.reset else l.pollList
        pollPos := if p then 0 else l.pollPos
        cycle := if p then 0#4 else l.cycle
        burst := if p then 0 else l.burst
        window := .closed
        windowTimer := none
        pauseTimer := none } := by
  unfold LineRec.emptied LineRec.startTurnaround
  cases p <;> cases l.tp <;> by_cases polled : l.config.mode = .polled <;> simp [polled]

theorem LineTraffic.emptied (p : Bool) (l : LineRec) : LineTraffic l (l.emptied p) := by
  rw [LineRec.emptied_eq]
  refine ⟨rfl, Iff.rfl, Nat.zero_le _, Nat.zero_le _, Nat.zero_le _, Nat.zero_le _, fun _ => List.nodup_nil, ?_⟩
  cases p
  · rfl
  · simp [PollEntry.reset]

theorem Traffic.flushLine (h : Traffic a s) (up : (a.line k).state ≠ .off) {p : Bool} :
    Traffic a (flushLine k p s) := by
  have emptied : Traffic a (s.modLine k (LineRec.emptied p)) :=
    h.modLine (Busy.of_up up) (LineTraffic.emptied p _) fun off => absurd off (h.state_ne_off up)
  exact emptied.calm (Calm.flushLine s) fun h => PoolServes.flushLine (s := s) (h.of_eq rfl rfl)

theorem Traffic.returnToMark (h : Traffic a s) (up : (a.line k).state ≠ .off) : Traffic a (returnToMark k s) := by
  have marked : Traffic a (s.modLine k fun l =>
      { l with
        rxd := .mark
        rx := { l.rx with brk := false }
        faultTimer := none
        recovery :=
          if l.state = .fault ∧ l.rxd = .space then some Config.recoveryMs else l.recovery }) :=
    h.modBusy (Busy.of_up up) rfl rfl rfl
  unfold Machine.returnToMark
  dsimp only
  split
  · exact marked.abandonFrame (Busy.of_up up)
  · exact marked

theorem Traffic.recover (h : Traffic a s) (up : (a.line k).state ≠ .off) : Traffic a (recover k s) := by
  have restored : Traffic a (s.modLine k fun l =>
      { l with state := .active, recovery := none, rx := Receiver.fresh }) := h.modUp up rfl (fun e => nomatch e)
  exact restored.noteEvent

theorem Traffic.intervalExpiry (h : Traffic a s) : Traffic a (intervalExpiry s) := by
  have idle : Traffic s (s.modNotice fun n => { n with state := .idle, timer := none }) :=
    ⟨rfl, fun _ => LineTraffic.refl _, fun _ _ h => h, fun _ _ h => ⟨h, rfl⟩, Nat.le_max_left _ _,
      fun ⟨building, _, pending, distinct, listed⟩ =>
        ⟨building, iff_of_false (fun e => nomatch e) (fun e => e rfl), pending, distinct, listed⟩,
      fun ⟨waiters, waiting⟩ => ⟨waiters, fun e => by
        obtain ⟨empty, emits⟩ := waiting e
        obtain ⟨-, address, reports⟩ := (NoticeUnit.emits_iff _).mp emits
        exact ⟨empty, (NoticeUnit.emits_iff _).mpr ⟨rfl, address, reports⟩⟩⟩⟩
  exact (h.trans idle).emissionTest

/-- The line's entry to FAULT, but for the warm restart that a lost reply may bring. -/
theorem Traffic.faultEntered (h : Traffic a s) (up : (a.line k).state ≠ .off) {p : Bool} :
    Traffic a (dropHeldReply k (Machine.noteEvent .lineChange (some k) none (Machine.flushLine k p
      (s.modLine k fun l =>
        { l with
          state := .fault
          faultTimer := none
          recovery := if l.rxd = .mark then some Config.recoveryMs else none
          rx := { l.rx with brk := false, inChar := false } })))) := by
  have down : Traffic a (s.modLine k fun l =>
      { l with
        state := .fault
        faultTimer := none
        recovery := if l.rxd = .mark then some Config.recoveryMs else none
        rx := { l.rx with brk := false, inChar := false } }) := h.modUp up rfl (fun e => nomatch e)
  exact ((down.flushLine up).noteEvent).calm (Calm.refl _).dropHeldReply fun h => h.dropHeldReply

theorem Traffic.resetLine (h : Traffic a s) : Traffic a (resetLine k s) := by
  unfold Machine.resetLine
  split
  · exact h
  · next up =>
    have stopped : Traffic s (s.modLine k fun l => { l with turnaround := none }) :=
      (Traffic.refl s).modBusy (Busy.of_up up) rfl rfl rfl
    exact h.trans (stopped.flushLine up)

end Sys2Proof.Machine
end

section
/-! PROOFS. Every step is a reset, or a run of named changes (`Change`): traffic, and the changes of claims,
tables, lists and settings that commands make. An invariant of every step is an invariant of these. -/

namespace Sys2Proof.Machine

variable {a s t : State} {i : SlotIx} {j k : Line}

/-! ## The changes -/

/-- An OFF line as LINE-SET brings it up, before it asks for a reservation (R20). -/
def LineRec.broughtUp (ops : List Byte) (l : LineRec) : LineRec :=
  { l with
    config := l.config.changed ops
    state := .active, rx := Receiver.fresh, turnaround := none, faultTimer := none, recovery := none
    pollPos := 0, cycle := 0#4, burst := 0 }

/-- The named values of a LINE-SET written (R154). -/
def LineRec.configured (ops : List Byte) (l : LineRec) : LineRec := { l with config := l.config.changed ops }

/-- One change that a step can make. -/
inductive Change : State → State → Prop
  | traffic {s t : State} (h : Traffic s t) : Change s t
  /-- the lease starts again (R142) -/
  | leaseStarts {s : State} (held : s.agent.claim ≠ none) : Change s (startLease s)
  /-- the lease starts again and the cache takes a reply (R142, R143) -/
  | cached {s : State} (held : s.agent.claim ≠ none) (e : CacheEntry) :
      Change s ((startLease s).modAgent fun a => { a with cache := some e })
  /-- the edit claim is granted (R140) -/
  | claimed {s : State} (c : Claim) :
      Change s (startLease (s.modAgent fun a => { a with claim := some c, cache := none }))
  /-- the edit claim ends (R141, R142) -/
  | claimEnds {s : State} : Change s (endClaim s)
  /-- the shadow table is edited (R72, R73) -/
  | shadowEdited {s : State} (held : s.agent.claim ≠ none) (table : RouteTable) :
      Change s (s.modRoute fun r => { r with shadow := table })
  /-- the shadow table becomes active (R77) -/
  | committed {s : State} (passes : commitFailure s.route.shadow = none) :
      Change s (s.modRoute fun r => { r with active := r.shadow, generation := r.generation + 1#16 })
  /-- a poll list is edited (R127, R128) -/
  | polls {s : State} (k : Line) (es : List PollEntry) (pos : Nat)
      (length : (s.line k).pollList.length ≤ 16 → es.length ≤ 16)
      (nodes : ((s.line k).pollList.map PollEntry.node).Nodup → (es.map PollEntry.node).Nodup) :
      Change s (s.setLine k { s.line k with pollList := es, pollPos := pos })
  /-- the relay's settings are written, and the pool grants at once (R159) -/
  | relaySet {s : State} (ops : List Byte) (passes : relaySetFailure ops (s.relayValues.changed ops) = none) :
      Change s (grantWaiters (writeRelayValues (s.relayValues.changed ops) s))
  /-- the notice settings are written (R160) -/
  | noticeSet {s : State} (ops : List Byte) (passes : noticeSetFailure ops = none) :
      Change s (withdrawIfEnded (s.modNotice fun n => n.changed ops))
  /-- the sequence in force is acknowledged (R169) -/
  | noticeAcked {s : State} : Change s (withdrawIfEnded (s.modNotice NoticeUnit.acked))
  /-- a line's settings are written, its line state standing (R154) -/
  | configured {s : State} (k : Line) (ops : List Byte) (accepted : lineSetRefusal s k ops = none)
      (state : (s.line k).state = .off ↔ ((s.line k).config.changed ops).mode = .off) :
      Change s (s.modLine k (LineRec.configured ops))
  /-- a line is brought up (R20) -/
  | broughtUp {s : State} (k : Line) (ops : List Byte) (accepted : lineSetRefusal s k ops = none)
      (mode : ((s.line k).config.changed ops).mode ≠ .off) : Change s (s.modLine k (LineRec.broughtUp ops))
  /-- a line is taken down (R21) -/
  | takenDown {s : State} (k : Line) (ops : List Byte) (polled : Bool) (accepted : lineSetRefusal s k ops = none)
      (mode : ((s.line k).config.changed ops).mode = .off) :
      Change s (lineDown k polled (s.modLine k (LineRec.configured ops)))
  /-- the parts are cleared for a warm restart (R176) -/
  | cleared {s : State} : Change s (clearForRestart s)

/-- A run of changes. -/
abbrev Reaches : State → State → Prop := Relation.ReflTransGen Change

theorem Reaches.traffic (h : Reaches a s) (next : Traffic s t) : Reaches a t := h.tail (.traffic next)

theorem Traffic.reaches (h : Traffic s t) : Reaches s t := Relation.ReflTransGen.single (.traffic h)

/-! ## The warm restart, and what follows a reply -/

theorem Traffic.requestIfUp (h : Traffic a s) : Traffic a (requestIfUp s k) := by
  unfold Machine.requestIfUp
  split
  · exact h
  · next up => exact h.trans ((Traffic.refl s).requestReservation up)

theorem Traffic.requestsIfUp (ks : List Line) (h : Traffic a s) : Traffic a (ks.foldl Machine.requestIfUp s) := by
  induction ks generalizing s with
  | nil => exact h
  | cons k ks ih => exact ih h.requestIfUp

theorem Reaches.warmRestart (h : Reaches a s) : Reaches a (warmRestart s) :=
  Reaches.traffic (h.tail .cleared) ((Traffic.refl _).requestsIfUp _).noteEvent

theorem Reaches.restartIfDue (h : Reaches a s) : Reaches a (restartIfDue s) := by
  unfold Machine.restartIfDue
  split
  · exact h.warmRestart
  · exact h

theorem Cmd.held_of_fromHolder {c : Cmd} {g : Agent} (h : c.fromHolder g = true) : g.claim ≠ none := by
  intro free
  simp [Cmd.fromHolder, free] at h

/-- A command's own part is a run of changes, given the claim where it needs it. -/
def Body.Reaches (code : Byte) (body : Body) : Prop :=
  ∀ (c : Cmd) (s : State), c.code = code → (c.needsClaim = true → c.fromHolder s.agent = true) →
    Machine.Reaches s (body c s).1

theorem Cmd.decide_reaches {body : Body} {c : Cmd} (own : body.Reaches c.code) (s : State) :
    Reaches s (c.decide body s).1 := by
  unfold Cmd.decide
  split
  · exact .refl
  · split
    · exact .refl
    · split
      · split <;> exact .refl
      · next claim =>
        refine own c s rfl fun needs => ?_
        simpa [needs] using claim

theorem Reaches.recordReply (h : Reaches a s) {c : Cmd} {r : Reply} : Reaches a (recordReply c r s) := by
  unfold Machine.recordReply
  split
  · next ok => exact h.tail (.cached (Cmd.held_of_fromHolder ok.2) _)
  · exact h

theorem Reaches.answer (h : Reaches a s) {c : Cmd} {bytes : List Byte} :
    Reaches a (Machine.restartIfDue (offerReply (buildReply c bytes s))) := by
  have built : Traffic s (buildReply c bytes s) :=
    Traffic.modSlot (i := c.slot) (f := fun x =>
      { x with frame := x.frame.toReply s.route.relayAddr (c.code :: c.tag :: bytes) }) (Traffic.refl s)
  exact (h.traffic built.offerReply).restartIfDue

theorem Reaches.complete {body : Body} {c : Cmd} (own : body.Reaches c.code) (s : State) :
    Reaches s (complete body c s) := by
  unfold Machine.complete
  split
  · next replayed =>
    have held : s.agent.claim ≠ none := by
      unfold Cmd.replay at replayed
      split at replayed
      · split at replayed
        · next same => exact Cmd.held_of_fromHolder same.1
        · cases replayed
      · cases replayed
    exact Reaches.answer (.single (.leaseStarts held))
  · exact (Reaches.recordReply (Cmd.decide_reaches own s)).answer

/-- What an event leads to: nothing, or a run of changes that is settled. -/
def EventReaches (s t : State) : Prop := t = s ∨ ∃ u, Reaches s u ∧ t = settle u

theorem event_reaches {p : Bool} {f : State → State} (e : event s p f = .next t)
    (effect : p = true → Reaches s (f s)) : EventReaches s t := by
  rcases event_cases e with same | ⟨possible, settled⟩
  · exact .inl same
  · exact .inr ⟨_, effect possible, settled⟩

theorem event_traffic {p : Bool} {f : State → State} (e : event s p f = .next t)
    (effect : p = true → Traffic s (f s)) : EventReaches s t := event_reaches e fun p => (effect p).reaches

theorem State.code_of_commandOf {code : Byte} {c : Cmd} (e : s.commandOf code = some c) : c.code = code := by
  unfold State.commandOf at e
  exact of_decide_eq_true (Option.filter_eq_some_iff.mp e).2

theorem execCommand_reaches {code : Byte} {body : Body} (own : body.Reaches code)
    (e : execCommand code body s = .next t) : EventReaches s t := by
  refine event_reaches e fun possible => ?_
  obtain ⟨c, found⟩ := Option.isSome_iff_exists.mp possible
  rw [found]
  exact Reaches.complete (State.code_of_commandOf found ▸ own) s

theorem execNoticeCommand_reaches {code : Byte} {body : Body} (own : body.Reaches code)
    (e : execNoticeCommand code body s = .next t) : EventReaches s t := by
  refine event_reaches e fun possible => ?_
  obtain ⟨c, found⟩ := Option.isSome_iff_exists.mp possible
  rw [found]
  exact (Reaches.complete (State.code_of_commandOf found ▸ own) s).traffic (Traffic.refl _).emissionTest

theorem execUnknownCommand_reaches (e : execUnknownCommand s = .next t) : EventReaches s t := by
  refine event_reaches e fun _ => ?_
  split
  · exact Reaches.complete (fun _ _ _ _ => .refl) s
  · exact .refl

/-! ## The commands' own parts -/

theorem Body.reaches_of_same {code : Byte} {body : Body} (same : ∀ c s, (body c s).1 = s) : body.Reaches code :=
  fun c s _ _ => by rw [same]

theorem lineReadBody_same (c : Cmd) (s : State) : (lineReadBody c s).1 = s := by
  unfold lineReadBody; split <;> rfl

theorem routeReadBody_same (c : Cmd) (s : State) : (routeReadBody c s).1 = s := by
  have report (t : RouteTable) : (match entryOfByte? (byteAt c.ops 1) with
      | none => (s, Reply.operand 2)
      | some n => (s, Reply.ok ((t.get n).bytes ++ wordBytes s.route.generation))).1 = s := by
    split <;> rfl
  unfold routeReadBody
  dsimp only
  split
  · exact report _
  · exact report _
  · rfl

theorem pollReadBody_same (c : Cmd) (s : State) : (pollReadBody c s).1 = s := by
  unfold pollReadBody
  split
  · rfl
  · dsimp only; split <;> rfl

theorem claimBody_reaches : Body.Reaches 0x02#8 claimBody := fun c s _ _ => by
  unfold claimBody
  split
  · exact .single (.claimed _)
  · exact .refl
  · next claimed =>
    split
    · exact .single (.leaseStarts (by rw [claimed]; exact Option.some_ne_none _))
    · exact .refl

theorem releaseBody_reaches : Body.Reaches 0x03#8 releaseBody := fun _ _ _ _ => .single .claimEnds

/-- A command that edits the shadow table needs the claim. -/
theorem Cmd.held_of_edits {c : Cmd} {code : Byte} (edits : code ∈ [0x05#8, 0x06#8, 0x07#8, 0x08#8])
    (e : c.code = code) (claim : c.needsClaim = true → c.fromHolder s.agent = true) : s.agent.claim ≠ none := by
  refine Cmd.held_of_fromHolder (claim ?_)
  rw [← e] at edits
  simp only [List.mem_cons, List.not_mem_nil, or_false] at edits
  rcases edits with h | h | h | h <;> simp [Cmd.needsClaim, h]

theorem routeWriteBody_reaches : Body.Reaches 0x05#8 routeWriteBody := fun c s e claim => by
  have held := Cmd.held_of_edits (by decide) e claim
  unfold routeWriteBody
  dsimp only
  split
  · exact .refl
  · split
    · exact .refl
    · split
      · exact .refl
      · split
        · exact .refl
        · split
          · exact .refl
          · exact .single (.shadowEdited held _)

theorem routeClearBody_reaches : Body.Reaches 0x06#8 routeClearBody := fun c s e claim => by
  have held := Cmd.held_of_edits (by decide) e claim
  unfold routeClearBody
  dsimp only
  split
  · exact .single (.shadowEdited held _)
  · split
    · exact .refl
    · exact .single (.shadowEdited held _)

theorem routeCopyBody_reaches : Body.Reaches 0x07#8 routeCopyBody := fun _ _ e claim =>
  .single (.shadowEdited (Cmd.held_of_edits (by decide) e claim) _)

theorem routeCommitBody_reaches : Body.Reaches 0x08#8 routeCommitBody := fun c s _ _ => by
  unfold routeCommitBody
  dsimp only
  split
  · exact .refl
  · split
    · exact .refl
    · next passes => exact .single (.committed passes)

theorem relaySetBody_reaches : Body.Reaches 0x12#8 relaySetBody := fun c s _ _ => by
  cases tested : relaySetFailure c.ops (s.relayValues.changed c.ops) with
  | some n => rw [relaySetBody_of_failure tested]
  | none =>
    rw [relaySetBody_of_passes tested rfl]
    have evaluated (u : State) : Traffic u (evaluatePool u) :=
      (Traffic.refl u).calm (Calm.refl u).evaluatePool PoolServes.evaluatePool
    dsimp only
    exact Reaches.traffic (.single (.relaySet c.ops tested)) (evaluated _)

theorem noticeSetBody_reaches : Body.Reaches 0x14#8 noticeSetBody := fun c s _ _ => by
  unfold noticeSetBody
  split
  · exact .refl
  · next passes => exact .single (.noticeSet c.ops passes)

theorem noticeAckBody_reaches : Body.Reaches 0x15#8 noticeAckBody := fun c s _ _ => by
  unfold noticeAckBody
  dsimp only
  split
  · exact .refl
  · split
    · exact .refl
    · exact .single .noticeAcked

theorem restartBody_reaches : Body.Reaches 0x16#8 restartBody := fun c s _ _ =>
  Traffic.reaches (((Calm.refl s).modAgent (f := fun g =>
    { g with state := .restartPending, restartReply := some c.slot }) ⟨rfl, rfl, rfl, rfl⟩
    (Nat.le_max_left _ _)).traffic fun h => h.modAgent)

/-- A change of a line outside all that `Traffic` names. -/
theorem Traffic.modCounters {f : LineRec → LineRec} (port : ∀ l, (f l).port = l.port)
    (engine : ∀ l, (f l).engine = l.engine) (normalQ : ∀ l, (f l).normalQ = l.normalQ)
    (urgentQ : ∀ l, (f l).urgentQ = l.urgentQ) (reservation : ∀ l, (f l).reservation = l.reservation) :
    Traffic s (s.modLine k f) :=
  ((Calm.refl s).modLine (LineCalm.of_eq (port _) (engine _) (normalQ _) (urgentQ _) (reservation _))).traffic
    fun h => h.modLine

theorem countReadBody_reaches : Body.Reaches 0x0F#8 countReadBody := fun c s _ _ => by
  unfold countReadBody
  dsimp only
  split
  · dsimp only
    split
    · exact Traffic.reaches (Traffic.modCounters (fun _ => rfl) (fun _ => rfl) (fun _ => rfl) (fun _ => rfl)
        fun _ => rfl)
    · exact .refl
  · split
    · dsimp only
      split
      · have cleared : Calm s (s.modRoute fun r => { r with counters := Vector.replicate 7 0#16 }) :=
          (Calm.refl s).aside rfl rfl rfl rfl rfl
        exact Traffic.reaches (cleared.traffic fun h => h.modRoute)
      · exact .refl
    · exact .refl

/-- A write to a poll list leaves its nodes unique when no other entry holds the node. -/
theorem nodup_nodes_set {es : List PollEntry} {n : Nat} {node : Addr} (lt : n < es.length)
    (fresh : heldElsewhere es n node = false) (h : (es.map PollEntry.node).Nodup) :
    ((es.set n (PollEntry.fresh node)).map PollEntry.node).Nodup := by
  have perm : (es.set n (PollEntry.fresh node)).Perm (PollEntry.fresh node :: es.eraseIdx n) := by
    rw [List.set_eq_take_append_cons_drop, if_pos lt, List.eraseIdx_eq_take_drop_succ]
    exact List.perm_middle
  rw [(perm.map PollEntry.node).nodup_iff, List.map_cons, List.nodup_cons]
  refine ⟨fun member => ?_, h.sublist ((List.eraseIdx_sublist es n).map _)⟩
  obtain ⟨e, elsewhere, same⟩ := List.mem_map.mp member
  simp only [heldElsewhere, List.any_eq_false, decide_eq_true_eq] at fresh
  exact fresh e elsewhere same

theorem nodup_nodes_append {es : List PollEntry} {node : Addr}
    (fresh : heldElsewhere es es.length node = false) (h : (es.map PollEntry.node).Nodup) :
    ((es ++ [PollEntry.fresh node]).map PollEntry.node).Nodup := by
  rw [heldElsewhere, List.eraseIdx_of_length_le (Nat.le_refl _)] at fresh
  simp only [List.any_eq_false, decide_eq_true_eq] at fresh
  rw [List.map_append, List.nodup_append]
  refine ⟨h, List.nodup_singleton _, fun x member y single => ?_⟩
  obtain ⟨e, old, rfl⟩ := List.mem_map.mp member
  rw [List.mem_singleton.mp single]
  exact fresh e old

theorem pollWriteBody_reaches : Body.Reaches 0x0D#8 pollWriteBody := fun c s _ _ => by
  unfold pollWriteBody
  split
  · exact .refl
  · next k _ =>
    dsimp only
    split
    · exact .refl
    · split
      · exact .refl
      · next inList =>
        split
        · exact .refl
        · next fresh =>
          rw [Bool.not_eq_true] at fresh
          split
          · exact .refl
          · next room =>
            refine .single (.polls k _ (s.line k).pollPos (fun bound => ?_) fun nodes => ?_)
            · split
              · rwa [List.length_set]
              · simp [Config.pollCap] at room ⊢; omega
            · split
              · next lt => exact nodup_nodes_set lt fresh nodes
              · next ge =>
                have last : (byteAt c.ops 1).toNat = (s.line k).pollList.length := by omega
                exact nodup_nodes_append (last ▸ fresh) nodes

theorem pollRemoveBody_reaches : Body.Reaches 0x0E#8 pollRemoveBody := fun c s _ _ => by
  unfold pollRemoveBody
  split
  · exact .refl
  · next k _ =>
    dsimp only
    split
    · exact .refl
    · refine .single (.polls k _ _ (fun bound => ?_) fun nodes => ?_)
      · exact (List.length_eraseIdx_le _ _).trans bound
      · exact nodes.sublist ((List.eraseIdx_sublist _ _).map _)

theorem lineResetBody_reaches : Body.Reaches 0x0B#8 lineResetBody := fun c s _ _ => by
  unfold lineResetBody
  split
  · exact .refl
  · exact (Traffic.refl s).resetLine.reaches

/-! ## LINE-SET -/

theorem changeLineState_reaches {ops : List Byte} (accepted : lineSetRefusal s k ops = none) :
    Reaches s (changeLineState k (s.line k) (s.modLine k (LineRec.configured ops))) := by
  have mode : ((s.modLine k (LineRec.configured ops)).line k).config = (s.line k).config.changed ops := by
    rw [State.line_modLine_same]; rfl
  unfold changeLineState
  rw [mode]
  split
  · next off =>
    split
    · next down => exact .single (.configured k ops accepted (iff_of_true off down))
    · next on =>
      have up : (s.modLine k (LineRec.configured ops)).modLine k (fun l =>
          { l with
            state := .active, rx := Receiver.fresh, turnaround := none, faultTimer := none, recovery := none
            pollPos := 0, cycle := 0#4, burst := 0 }) = s.modLine k (LineRec.broughtUp ops) :=
        State.modLine_modLine _ _ _ _
      have risen : ((s.modLine k (LineRec.broughtUp ops)).line k).state ≠ .off := by
        rw [State.line_modLine_same]; exact fun e => nomatch e
      unfold lineUp
      rw [up]
      exact Reaches.traffic (.single (.broughtUp k ops accepted on))
        ((Traffic.refl _).requestReservation risen).noteEvent
  · next up =>
    split
    · next down => exact .single (.takenDown k ops _ accepted down)
    · next on => exact .single (.configured k ops accepted (iff_of_false up on))

theorem lineSetBody_reaches : Body.Reaches 0x0A#8 lineSetBody := fun c s _ _ => by
  unfold lineSetBody
  split
  · exact .refl
  · next k _ =>
    split
    · exact .refl
    · next accepted =>
      exact (changeLineState_reaches accepted).traffic
        ((Calm.refl _).turnAfterSet.traffic fun h => h.turnAfterSet)

/-! ## Every command -/

theorem LineRec.listening_up {l : LineRec} (h : l.listening = true) : l.state ≠ .off := by
  simp only [LineRec.listening, Bool.and_eq_true, decide_eq_true_eq] at h
  rw [h.1.1]
  decide

theorem state_ne_off_of_active {l : LineRec} (h : l.state = .active) : l.state ≠ .off := by rw [h]; decide

theorem LineRec.bare.timers {l : LineRec} (h : l.bare) :
    l.turnaround = none ∧ l.confirmTimer = none ∧ l.windowTimer = none ∧ l.pauseTimer = none := by
  obtain ⟨-, -, -, turnaround, -, -, -, -, -, -, -, confirm, -, -, -, window, pause⟩ := h
  exact ⟨turnaround, confirm, window, pause⟩

theorem exec_reaches {c : Instr} (notAssert : c ≠ .rstnAssert) (notRelease : ∀ a m, c ≠ .rstnRelease a m)
    (e : exec c s = .next t) : EventReaches s t := by
  have start := Traffic.refl s
  cases c with
  | rstnAssert => exact absurd rfl notAssert
  | rstnRelease a m => exact absurd rfl (notRelease a m)
  | characterReceived k c =>
    rw [exec_characterReceived] at e
    exact event_traffic e fun p => start.takeChar (LineRec.listening_up p)
  | gapTimerExpiry k =>
    rw [exec_gapTimerExpiry] at e
    refine event_traffic e fun p => start.abandonFrame (Busy.of_up (state_ne_off_of_active ?_))
    simp only [Bool.and_eq_true, decide_eq_true_eq] at p
    exact p.1.1
  | quietTimerExpiry k =>
    rw [exec_quietTimerExpiry] at e
    refine event_traffic e fun p => start.quietExpiry (Busy.of_up (state_ne_off_of_active ?_))
    simp only [Bool.and_eq_true, decide_eq_true_eq] at p
    exact p.1.1
  | receiveCompletion k b =>
    refine event_traffic e fun p => start.takeChar (LineRec.listening_up ?_)
    simp only [Bool.and_eq_true] at p
    exact p.1
  | reservationGrant =>
    rw [exec_reservationGrant] at e
    exact event_traffic e fun _ => start.calm (Calm.refl s).grantOne fun h => h.grantOne
  | transmitSelection k =>
    rw [exec_transmitSelection] at e
    exact event_traffic e fun p => start.calm ((Calm.refl s).selectDirect (LineRec.active_of_selects p))
      fun h => h.selectDirect
  | polledTurn k =>
    rw [exec_polledTurn] at e
    exact event_traffic e fun p => start.calm ((Calm.refl s).takeTurn (LineRec.polls_of_takesTurn p).1)
      fun h => h.takeTurn
  | transmitCompletion k =>
    rw [exec_transmitCompletion] at e
    refine event_reaches e fun p => ?_
    simp only [Bool.and_eq_true, decide_eq_true_eq] at p
    unfold transmitDone
    split
    · exact .refl
    · exact Reaches.restartIfDue (start.completeTx (Busy.of_up (state_ne_off_of_active p.1))).reaches
  | confirmTimerExpiry k =>
    rw [exec_confirmTimerExpiry] at e
    refine event_traffic e fun p => ?_
    have busy : Busy s k := fun _ bare => by simp [bare.timers.2.1] at p
    exact Traffic.awaitExpiry (start.modBusy busy rfl rfl rfl) busy
  | replyWindowExpiry k =>
    rw [exec_replyWindowExpiry] at e
    refine event_traffic e fun p => start.windowExpiry fun _ bare => ?_
    simp [bare.timers.2.2.1] at p
  | turnaroundEnd k =>
    rw [exec_turnaroundEnd] at e
    refine event_traffic e fun p => start.modBusy (fun _ bare => ?_) rfl rfl rfl
    simp [bare.timers.1] at p
  | pollPauseExpiry k =>
    rw [exec_pollPauseExpiry] at e
    refine event_traffic e fun p => start.modBusy (fun _ bare => ?_) rfl rfl rfl
    simp [bare.timers.2.2.2] at p
  | faultTimerExpiry k =>
    rw [exec_faultTimerExpiry] at e
    refine event_reaches e fun p => ?_
    simp only [Bool.and_eq_true, decide_eq_true_eq] at p
    exact Reaches.restartIfDue (start.faultEntered (state_ne_off_of_active p.1)).reaches
  | rxdReturnToMark k =>
    rw [exec_rxdReturnToMark] at e
    exact event_traffic e fun p => start.returnToMark (of_decide_eq_true p)
  | rxdSpaceInFault k =>
    rw [exec_rxdSpaceInFault] at e
    refine event_traffic e fun p => start.modBusy (Busy.of_up ?_) rfl rfl rfl
    rw [of_decide_eq_true p]
    decide
  | recoveryTimerExpiry k =>
    rw [exec_recoveryTimerExpiry] at e
    refine event_traffic e fun p => start.recover ?_
    simp only [Bool.and_eq_true, decide_eq_true_eq] at p
    rw [p.1]
    decide
  | agentTake =>
    rw [exec_agentTake] at e
    exact event_traffic e fun _ => start.calm (Calm.refl s).takeCommand fun h => h.takeCommand
  | unknownCommand => exact execUnknownCommand_reaches e
  | replyWaitRoom =>
    rw [exec_replyWaitRoom] at e
    exact event_reaches e fun _ =>
      Reaches.restartIfDue (start.calm (Calm.refl s).giveRoom fun h => h.giveRoom).reaches
  | ident => exact execCommand_reaches (Body.reaches_of_same (body := identBody) fun _ _ => rfl) e
  | claim => exact execCommand_reaches claimBody_reaches e
  | release => exact execCommand_reaches releaseBody_reaches e
  | routeRead => exact execCommand_reaches (Body.reaches_of_same routeReadBody_same) e
  | routeWrite => exact execCommand_reaches routeWriteBody_reaches e
  | routeClear => exact execCommand_reaches routeClearBody_reaches e
  | routeCopy => exact execCommand_reaches routeCopyBody_reaches e
  | routeCommit => exact execCommand_reaches routeCommitBody_reaches e
  | lineRead => exact execCommand_reaches (Body.reaches_of_same lineReadBody_same) e
  | lineSet => exact execCommand_reaches lineSetBody_reaches e
  | lineReset => exact execCommand_reaches lineResetBody_reaches e
  | pollRead => exact execCommand_reaches (Body.reaches_of_same pollReadBody_same) e
  | pollWrite => exact execCommand_reaches pollWriteBody_reaches e
  | pollRemove => exact execCommand_reaches pollRemoveBody_reaches e
  | countRead => exact execCommand_reaches countReadBody_reaches e
  | poolRead => exact execCommand_reaches (Body.reaches_of_same (body := poolReadBody) fun _ _ => rfl) e
  | relayRead => exact execCommand_reaches (Body.reaches_of_same (body := relayReadBody) fun _ _ => rfl) e
  | relaySet => exact execCommand_reaches relaySetBody_reaches e
  | noticeRead => exact execCommand_reaches (Body.reaches_of_same (body := noticeReadBody) fun _ _ => rfl) e
  | noticeSet => exact execNoticeCommand_reaches noticeSetBody_reaches e
  | noticeAck => exact execNoticeCommand_reaches noticeAckBody_reaches e
  | restart => exact execCommand_reaches restartBody_reaches e
  | warmRestart =>
    rw [exec_warmRestart] at e
    exact event_reaches e fun _ => Reaches.warmRestart .refl
  | leaseExpiry =>
    rw [exec_leaseExpiry] at e
    refine event_reaches e fun _ => ?_
    unfold lapse
    split
    · exact Reaches.traffic (.single .claimEnds) (Traffic.refl _).noteEvent
    · exact .single .claimEnds
  | noticeSlotServed =>
    rw [exec_noticeSlotServed] at e
    exact event_traffic e fun _ => start.calm (Calm.refl s).serveNotice fun h => h.serveNotice
  | noticeIntervalExpiry => rw [exec_noticeIntervalExpiry] at e; exact event_traffic e fun _ => start.intervalExpiry
  | startBit k mid =>
    rw [exec_startBit] at e
    refine event_traffic e fun p => start.startChar (Busy.of_up (LineRec.listening_up ?_))
    simp only [Bool.and_eq_true] at p
    exact p.1.1

/-! ## Invariants -/

theorem Traffic.settled (u : State) : Traffic u (settle u) := (Traffic.refl u).calm (Calm.refl u).settle PoolServes.settle


/-- What holds at both resets, is kept by every change, and does not look at the queue of commands, is kept by
every step. -/
theorem invariant_step {P : State → Prop} (queue : ∀ s cs, P s → P { s with pending := cs })
    (held : ∀ p, P (State.heldInReset p)) (on : ∀ p, P (State.powerOn p)) (change : ∀ s t, Change s t → P s → P t)
    {s t : State} (h : P s) (e : step s = .next t) : P t := by
  have run {s t : State} (r : Reaches s t) (h : P s) : P t := by
    induction r with
    | refl => exact h
    | tail _ last ih => exact change _ _ last ih
  have command {c : Instr} {s t : State} (h : P s) (e : exec c s = .next t) : P t := by
    by_cases assert : c = .rstnAssert
    · subst assert; cases e; exact queue _ _ (held _)
    · by_cases release : ∃ a m, c = .rstnRelease a m
      · obtain ⟨addr, msel, rfl⟩ := release; cases e; exact queue _ _ (on _)
      · rcases exec_reaches assert (fun addr msel e => release ⟨addr, msel, e⟩) e with same | ⟨u, r, settled⟩
        · exact same ▸ h
        · rw [settled]
          exact change _ _ (.traffic (Traffic.settled u)) (run r h)
  unfold step at e
  split at e
  · cases e; exact h
  · exact command (queue _ _ h) e

end Sys2Proof.Machine
end

section
/-! PROOFS. The invariants of settings, claims and tables. -/

namespace Sys2Proof.Machine

variable {s t : State} {i : SlotIx} {j k : Line} {ops : List Byte}

/-! ## What LINE-SET's tests leave -/

theorem lineSetRefusal_eq_none (accepted : lineSetRefusal s k ops = none) :
    firstOutOfRange ops = none ∧ keepsWayIn s k ((s.line k).config.changed ops) = true := by
  unfold lineSetRefusal at accepted
  dsimp only at accepted
  split at accepted
  · cases accepted
  · next inRange =>
    split at accepted
    · cases accepted
    · split at accepted
      · cases accepted
      · split at accepted
        · cases accepted
        · next wayIn => exact ⟨inRange, by simpa using wayIn⟩

theorem fieldInRange_of_named (inRange : firstOutOfRange ops = none) {n : Nat} (lt : n < 15)
    (named : names (lineChanges ops) n = true) : fieldInRange ops n = true := by
  have tested := List.find?_eq_none.mp inRange n (List.mem_range.mpr lt)
  simpa [named] using tested

theorem ite_inRange {b : Bool} {lo hi x y : Nat} (new : b = true → inRange lo hi x = true)
    (old : lo ≤ y ∧ y ≤ hi) : lo ≤ (if b then x else y) ∧ (if b then x else y) ≤ hi := by
  cases b with
  | true => simpa [inRange] using new rfl
  | false => exact old

/-- A record of which only named fields in range are replaced stays in range (R13, R152). -/
theorem LineConfig.inRanges_changed {c : LineConfig} (h : c.inRanges) (inRange : firstOutOfRange ops = none) :
    (c.changed ops).inRanges := by
  obtain ⟨divisor, divisor', stop, stop', gap, gap', turn, quota, quota', confirm, confirm', retry, window, window',
    miss, miss', burst, burst', recheck, recheck', pause⟩ := h
  have field {n : Nat} (lt : n < 15) := fieldInRange_of_named inRange lt
  obtain ⟨d, d'⟩ := ite_inRange (field (n := 1) (by omega)) ⟨divisor, divisor'⟩
  obtain ⟨st, st'⟩ := ite_inRange (field (n := 3) (by omega)) ⟨stop, stop'⟩
  obtain ⟨g, g'⟩ := ite_inRange (field (n := 4) (by omega)) ⟨gap, gap'⟩
  obtain ⟨-, t'⟩ := ite_inRange (field (n := 5) (by omega)) ⟨Nat.zero_le _, turn⟩
  obtain ⟨q, q'⟩ := ite_inRange (field (n := 7) (by omega)) ⟨quota, quota'⟩
  obtain ⟨c, c'⟩ := ite_inRange (field (n := 8) (by omega)) ⟨confirm, confirm'⟩
  obtain ⟨-, r'⟩ := ite_inRange (field (n := 9) (by omega)) ⟨Nat.zero_le _, retry⟩
  obtain ⟨w, w'⟩ := ite_inRange (field (n := 10) (by omega)) ⟨window, window'⟩
  obtain ⟨m, m'⟩ := ite_inRange (field (n := 11) (by omega)) ⟨miss, miss'⟩
  obtain ⟨b, b'⟩ := ite_inRange (field (n := 12) (by omega)) ⟨burst, burst'⟩
  obtain ⟨x, x'⟩ := ite_inRange (field (n := 13) (by omega)) ⟨recheck, recheck'⟩
  obtain ⟨-, p'⟩ := ite_inRange (field (n := 14) (by omega)) ⟨Nat.zero_le _, pause⟩
  exact ⟨d, d', st, st', g, g', t', q, q', c, c', r', w, w', m, m', b, b', x, x', p'⟩

/-! ## Lines taken down -/

/-- The state in which a line has gone down and been emptied, its reservation still held (R21, R85). -/
def State.downed (s : State) (k : Line) (polled : Bool) : State :=
  (s.modPool fun p => { p with waiters := LineSet.erase p.waiters k }).modLine k fun l =>
    LineRec.emptied polled
      { l with
        state := .off, turnaround := none, faultTimer := none, recovery := none
        rx := Receiver.idleStopped }

/-- A line is taken down in calm steps but for the loss of its reservation (R21). -/
theorem lineDown_calm (k : Line) (polled : Bool) (s : State) :
    ∃ u, Calm (s.downed k polled) u ∧
      Calm (u.modLine k fun l => { l with reservation := none }) (lineDown k polled s) := by
  have flushed := Calm.flushLine (k := k) (p := polled)
    ((s.modPool fun p => { p with waiters := LineSet.erase p.waiters k }).modLine k fun l =>
      { l with
        state := .off, turnaround := none, faultTimer := none, recovery := none
        rx := Receiver.idleStopped })
  rw [State.modLine_modLine] at flushed
  refine ⟨_, flushed, ?_⟩
  unfold lineDown releaseReservation
  dsimp only
  split
  · exact (Calm.refl _).releaseRef.noteEvent
  · next none =>
    rw [State.modLine_def, State.setLine_self _ _ _ (by rw [← none])]
    exact (Calm.refl _).noteEvent

theorem State.line_downed (s : State) (j k : Line) (polled : Bool) :
    (s.downed k polled).line j =
      if j = k then
        LineRec.emptied polled
          { s.line j with
            state := .off, turnaround := none, faultTimer := none, recovery := none
            rx := Receiver.idleStopped }
      else s.line j := State.line_modLine _ _ _ _

theorem lineDown_globals (k : Line) (polled : Bool) (s : State) :
    (lineDown k polled s).globals = s.globals := by
  obtain ⟨u, first, second⟩ := lineDown_calm k polled s
  exact second.globals.trans first.globals

theorem lineDown_config (k : Line) (polled : Bool) (s : State) (j : Line) :
    ((lineDown k polled s).line j).config = (s.line j).config := by
  obtain ⟨u, first, second⟩ := lineDown_calm k polled s
  have released : ((u.modLine k fun l => { l with reservation := none }).line j).config = (u.line j).config := by
    rw [State.line_modLine]; split <;> rfl
  have emptied : ((s.downed k polled).line j).config = (s.line j).config := by
    rw [State.line_downed]
    split
    · rw [(LineRec.emptied_fields _ _).1]
    · rfl
  rw [second.config, released, first.config, emptied]

/-! ## Settings in range -/

/-- The settings of the blocks other than the lines. -/
def State.settings (s : State) : Addr × Nat × Nat × Nat × Nat × Addr × Nat :=
  (s.route.relayAddr, s.pool.reserve, s.pool.lowMark, s.pool.highMark, s.agent.leaseSetting, s.notice.address,
    s.notice.interval)

theorem State.settings_of_globals (e : t.globals = s.globals) : t.settings = s.settings :=
  congrArg (fun g : Globals =>
    (g.relayAddr, g.reserve, g.lowMark, g.highMark, g.leaseSetting, g.address, g.interval)) e

theorem SettingsInRange.of_eq (h : SettingsInRange s) (config : ∀ k, (t.line k).config.inRanges)
    (settings : t.settings = s.settings) : SettingsInRange t := by
  simp only [State.settings, Prod.mk.injEq] at settings
  obtain ⟨relayAddr, reserve, lowMark, highMark, lease, address, interval⟩ := settings
  unfold SettingsInRange
  rw [relayAddr, reserve, lowMark, highMark, lease, address, interval]
  exact ⟨config, h.2⟩

theorem SettingsInRange.configured (h : SettingsInRange s) (accepted : lineSetRefusal s k ops = none)
    {f : LineRec → LineRec} (config : (f (s.line k)).config = (s.line k).config.changed ops) (j : Line) :
    ((s.modLine k f).line j).config.inRanges := by
  rw [State.line_modLine]
  split
  · next e =>
    subst e
    rw [config]
    exact LineConfig.inRanges_changed (h.1 _) (lineSetRefusal_eq_none accepted).1
  · exact h.1 j

/-- The values that pass RELAY-SET's tests are in range when those in force are (R158). -/
theorem relayValues_inRange (h : SettingsInRange s) (passes : relaySetFailure ops (s.relayValues.changed ops) = none) :
    let v := s.relayValues.changed ops
    v.relayAddr ≠ 0#16 ∧ v.relayAddr ≠ 0xFFFF#16 ∧ 1 ≤ v.reserve ∧ v.reserve ≤ 8 ∧
      v.reserve + 1 ≤ v.lowMark ∧ v.lowMark ≤ 64 ∧ v.lowMark < v.highMark ∧ v.highMark ≤ 96 ∧
      5 ≤ v.lease ∧ v.lease ≤ 255 := by
  obtain ⟨-, zero, ones, -, -, -, -, -, -, least, most, -⟩ := h
  intro v
  have address : names (relayChanges ops) 0 = false → v.relayAddr = s.route.relayAddr := fun e => by
    simp [v, RelayValues.changed, e, State.relayValues]
  have lease : names (relayChanges ops) 6 = false → v.lease = s.agent.leaseSetting := fun e => by
    simp [v, RelayValues.changed, e, State.relayValues]
  have tests : relaySetFailure ops v = none := passes
  unfold relaySetFailure at tests
  dsimp only at tests
  split at tests
  · cases tests
  next addressOk =>
  split at tests
  · cases tests
  split at tests
  · cases tests
  next reserveOk =>
  split at tests
  · cases tests
  next lowOk =>
  split at tests
  · cases tests
  next highOk =>
  split at tests
  · cases tests
  next leaseOk =>
  have addressInRange : v.relayAddr ≠ 0#16 ∧ v.relayAddr ≠ 0xFFFF#16 := by
    cases e : names (relayChanges ops) 0 with
    | true => simpa [e] using addressOk
    | false => rw [address e]; exact ⟨zero, ones⟩
  have leaseInRange : 5 ≤ v.lease ∧ v.lease ≤ 255 := by
    cases e : names (relayChanges ops) 6 with
    | true => simpa [e] using leaseOk
    | false => rw [lease e]; exact ⟨least, most⟩
  obtain ⟨r, r'⟩ := not_not.mp reserveOk
  obtain ⟨l, l'⟩ := not_not.mp lowOk
  obtain ⟨m, m'⟩ := not_not.mp highOk
  exact ⟨addressInRange.1, addressInRange.2, r, r', l, l', m, m', leaseInRange⟩

theorem withdrawIfEnded_cases (s : State) : withdrawIfEnded s = s ∨
    withdrawIfEnded s = s.modPool fun p => { p with noticeWaiting := false } := by
  unfold withdrawIfEnded
  split
  exacts [.inl rfl, .inr rfl]

theorem withdrawIfEnded_globals (s : State) : (withdrawIfEnded s).globals = s.globals := by
  rcases withdrawIfEnded_cases s with e | e
  · rw [e]
  · rw [e]; rfl

theorem withdrawIfEnded_line (s : State) (k : Line) : (withdrawIfEnded s).line k = s.line k := by
  rcases withdrawIfEnded_cases s with e | e
  · rw [e]
  · rw [e]; rfl

theorem noticeSettings_inRange (h : SettingsInRange s) (passes : noticeSetFailure ops = none) :
    (s.notice.changed ops).address ≠ 0xFFFF#16 ∧ 100 ≤ (s.notice.changed ops).interval ∧
      (s.notice.changed ops).interval ≤ 5000 := by
  obtain ⟨-, -, -, -, -, -, -, -, -, -, -, address, least, most⟩ := h
  unfold noticeSetFailure at passes
  dsimp only at passes
  split at passes
  · cases passes
  · next addressOk =>
    split at passes
    · cases passes
    · next intervalOk =>
      have interval : 100 ≤ (s.notice.changed ops).interval ∧ (s.notice.changed ops).interval ≤ 5000 := by
        cases e : names ((byteAt ops 0).setWidth 16) 2 with
        | true => simpa [NoticeUnit.changed, e] using intervalOk
        | false => simpa [NoticeUnit.changed, e] using ⟨least, most⟩
      refine ⟨?_, interval⟩
      cases e : names ((byteAt ops 0).setWidth 16) 0 with
      | true => simpa [NoticeUnit.changed, e] using addressOk
      | false => simpa [NoticeUnit.changed, e] using address

theorem LineRec.restarted_config (l : LineRec) : l.restarted.config = l.config := by
  unfold LineRec.restarted
  dsimp only
  split
  · rfl
  · exact (LineRec.emptied_fields _ _).1

theorem SettingsInRange.change (c : Change s t) (h : SettingsInRange s) : SettingsInRange t := by
  cases c with
  | traffic r =>
    exact h.of_eq (fun k => by rw [(r.line k).config]; exact h.1 k) (State.settings_of_globals r.globals)
  | leaseStarts => exact h
  | cached => exact h
  | claimed => exact h
  | claimEnds => exact h
  | shadowEdited => exact h
  | committed => exact h
  | polls k es pos =>
    exact h.of_eq (fun j => by rw [State.line_setLine]; split <;> exact h.1 _) rfl
  | relaySet ops passes =>
    have written : SettingsInRange (writeRelayValues (s.relayValues.changed ops) s) := by
      obtain ⟨zero, ones, r, r', l, l', m, m', lease, lease'⟩ := relayValues_inRange h passes
      obtain ⟨config, -, -, -, -, -, -, -, -, -, -, notice⟩ := h
      exact ⟨config, zero, ones, r, r', l, l', m, m', lease, lease', notice⟩
    have grants := (Calm.refl (writeRelayValues (s.relayValues.changed ops) s)).grantWaiters
    exact written.of_eq (fun k => by rw [grants.config k]; exact written.1 k)
      (State.settings_of_globals grants.globals)
  | noticeSet ops passes =>
    have written : SettingsInRange (s.modNotice fun n => n.changed ops) := by
      have notice := noticeSettings_inRange h passes
      obtain ⟨config, zero, ones, r, r', l, l', m, m', lease, lease', -⟩ := h
      exact ⟨config, zero, ones, r, r', l, l', m, m', lease, lease', notice⟩
    exact written.of_eq (fun k => by rw [withdrawIfEnded_line]; exact written.1 k)
      (State.settings_of_globals (withdrawIfEnded_globals _))
  | noticeAcked =>
    exact h.of_eq (fun k => by rw [withdrawIfEnded_line]; exact h.1 k)
      (State.settings_of_globals (withdrawIfEnded_globals _))
  | configured k ops accepted => exact h.of_eq (h.configured accepted rfl) rfl
  | broughtUp k ops accepted => exact h.of_eq (h.configured accepted rfl) rfl
  | takenDown k ops polled accepted =>
    exact h.of_eq (fun j => by rw [lineDown_config]; exact h.configured accepted rfl j)
      (State.settings_of_globals (lineDown_globals _ _ _))
  | cleared =>
    exact h.of_eq (fun k => by rw [line_clearForRestart, LineRec.restarted_config]; exact h.1 k) rfl

theorem LineConfig.inRanges_powerOn (mgmt : Bool) : (LineConfig.powerOn mgmt).inRanges := by
  simp [LineConfig.inRanges, LineConfig.powerOn]

theorem relayAddr_powerOn (addr : BitVec 4) :
    (RouteUnit.powerOn addr).relayAddr ≠ 0#16 ∧ (RouteUnit.powerOn addr).relayAddr ≠ 0xFFFF#16 := by
  revert addr; decide

theorem settingsInRange_values :
    1 ≤ Pool.powerOn.reserve ∧ Pool.powerOn.reserve ≤ 8 ∧ Pool.powerOn.reserve + 1 ≤ Pool.powerOn.lowMark ∧
      Pool.powerOn.lowMark ≤ 64 ∧ Pool.powerOn.lowMark < Pool.powerOn.highMark ∧ Pool.powerOn.highMark ≤ 96 ∧
      5 ≤ Agent.powerOn.leaseSetting ∧ Agent.powerOn.leaseSetting ≤ 255 ∧
      NoticeUnit.powerOn.address ≠ 0xFFFF#16 ∧ 100 ≤ NoticeUnit.powerOn.interval ∧
      NoticeUnit.powerOn.interval ≤ 5000 := by decide

theorem settingsInRange_heldInReset (p : Straps) : SettingsInRange (State.heldInReset p) := by
  obtain ⟨zero, ones⟩ := relayAddr_powerOn p.addr
  refine ⟨fun k => ?_, zero, ones, settingsInRange_values⟩
  rw [line_heldInReset]
  exact LineConfig.inRanges_powerOn false

theorem settingsInRange_powerOn (p : Straps) : SettingsInRange (State.powerOn p) := by
  obtain ⟨zero, ones⟩ := relayAddr_powerOn p.addr
  refine ⟨fun k => ?_, zero, ones, settingsInRange_values⟩
  rw [State.line_powerOn_eq]
  exact LineConfig.inRanges_powerOn _

/-- Settles O6: every change that writes a setting tests it first. -/
theorem settingsStayInRange : Obligations.SettingsStayInRange := fun _ _ h e =>
  invariant_step (fun _ _ h => h) settingsInRange_heldInReset settingsInRange_powerOn
    (fun _ _ c h => h.change c) h e

/-! ## The way in -/

theorem KeepsWayIn.of_eq (h : KeepsWayIn s) (rstnLow : t.rstnLow = s.rstnLow)
    (config : ∀ k, (t.line k).config = (s.line k).config) : KeepsWayIn t := fun up => by
  obtain ⟨k, mode, accepts⟩ := h (rstnLow ▸ up)
  exact ⟨k, by rw [config]; exact mode, by rw [config]; exact accepts⟩

theorem rstnLow_of_globals (e : t.globals = s.globals) : t.rstnLow = s.rstnLow := congrArg Globals.rstnLow e

/-- The test of R153 keeps a way in. -/
theorem keepsWayIn_of_accepted (accepted : lineSetRefusal s k ops = none)
    (config : ∀ j, (t.line j).config = if j = k then (s.line k).config.changed ops else (s.line j).config) :
    KeepsWayIn t := fun _ => by
  obtain ⟨j, -, found⟩ := List.any_eq_true.mp (lineSetRefusal_eq_none accepted).2
  have way : (t.line j).config.wayIn = true := by
    rw [config]
    split at found
    · next e => rwa [if_pos e]
    · next e => rwa [if_neg e]
  simp only [LineConfig.wayIn, Bool.and_eq_true, decide_eq_true_eq] at way
  exact ⟨j, way⟩

theorem config_modLine_changed {f : LineRec → LineRec} (config : (f (s.line k)).config = (s.line k).config.changed ops)
    (j : Line) : ((s.modLine k f).line j).config =
      if j = k then (s.line k).config.changed ops else (s.line j).config := by
  rw [State.line_modLine]
  split
  · next e => subst e; exact config
  · rfl

theorem KeepsWayIn.change (c : Change s t) (h : KeepsWayIn s) : KeepsWayIn t := by
  cases c with
  | traffic r => exact h.of_eq (rstnLow_of_globals r.globals) fun k => (r.line k).config
  | leaseStarts => exact h
  | cached => exact h
  | claimed => exact h
  | claimEnds => exact h
  | shadowEdited => exact h
  | committed => exact h
  | polls k es pos => exact h.of_eq rfl fun j => by rw [State.line_setLine]; split <;> simp_all
  | relaySet ops passes =>
    have grants := (Calm.refl (writeRelayValues (s.relayValues.changed ops) s)).grantWaiters
    have written : KeepsWayIn (writeRelayValues (s.relayValues.changed ops) s) := h
    exact written.of_eq (rstnLow_of_globals grants.globals) grants.config
  | noticeSet ops passes =>
    have written : KeepsWayIn (s.modNotice fun n => n.changed ops) := h
    exact written.of_eq (rstnLow_of_globals (withdrawIfEnded_globals _)) fun k => by rw [withdrawIfEnded_line]
  | noticeAcked =>
    exact h.of_eq (rstnLow_of_globals (withdrawIfEnded_globals _)) fun k => by rw [withdrawIfEnded_line]; rfl
  | configured k ops accepted => exact keepsWayIn_of_accepted accepted (config_modLine_changed rfl)
  | broughtUp k ops accepted => exact keepsWayIn_of_accepted accepted (config_modLine_changed rfl)
  | takenDown k ops polled accepted =>
    exact keepsWayIn_of_accepted accepted fun j => by rw [lineDown_config, config_modLine_changed rfl]
  | cleared => exact h.of_eq rfl fun k => by rw [line_clearForRestart, LineRec.restarted_config]

theorem keepsWayIn_powerOn (p : Straps) : KeepsWayIn (State.powerOn p) := fun _ =>
  ⟨p.mgmtLine, by simp [State.line_powerOn, LineRec.powerOn, LineConfig.powerOn]⟩

/-- Settles O7: only LINE-SET writes modes and acceptance, and R153's test stands before it. -/
theorem managementKeepsWayIn : Obligations.ManagementKeepsWayIn := fun _ _ h e =>
  invariant_step (fun _ _ h => h) (fun _ up => nomatch up) keepsWayIn_powerOn (fun _ _ c h => h.change c) h e

/-! ## The claim and the tables -/

/-- The edit claim with its lease and cache, and both route tables. -/
def State.editing (s : State) : Option Claim × Option Nat × Option CacheEntry × RouteTable × RouteTable :=
  (s.agent.claim, s.agent.lease, s.agent.cache, s.route.shadow, s.route.active)

theorem State.editing_of_globals (e : t.globals = s.globals) : t.editing = s.editing :=
  congrArg (fun g : Globals => (g.claim, g.lease, g.cache, g.shadow, g.active)) e

theorem ClaimConsistent.of_editing (h : ClaimConsistent s) (e : t.editing = s.editing) : ClaimConsistent t := by
  simp only [State.editing, Prod.mk.injEq] at e
  obtain ⟨claim, lease, cache, shadow, active⟩ := e
  unfold ClaimConsistent
  rw [claim, lease, cache, shadow, active]
  exact h

theorem ClaimConsistent.of_held (held : t.agent.claim ≠ none) (lease : t.agent.lease ≠ none) : ClaimConsistent t :=
  ⟨fun free => absurd free held, fun _ => lease⟩

theorem ClaimConsistent.of_free (free : t.agent.claim = none) (shadow : t.route.shadow = t.route.active)
    (lease : t.agent.lease = none) (cache : t.agent.cache = none) : ClaimConsistent t :=
  ⟨fun _ => ⟨shadow, lease, cache⟩, fun held => absurd free held⟩

theorem ClaimConsistent.change (c : Change s t) (h : ClaimConsistent s) : ClaimConsistent t := by
  cases c with
  | traffic r => exact h.of_editing (State.editing_of_globals r.globals)
  | leaseStarts held => exact .of_held held (Option.some_ne_none _)
  | cached held => exact .of_held held (Option.some_ne_none _)
  | claimed c => exact .of_held (Option.some_ne_none c) (Option.some_ne_none _)
  | claimEnds => exact .of_free rfl rfl rfl rfl
  | shadowEdited held table => exact .of_held held (h.2 held)
  | committed passes => exact ⟨fun free => ⟨rfl, (h.1 free).2⟩, h.2⟩
  | polls => exact h
  | relaySet ops passes =>
    have written : ClaimConsistent (writeRelayValues (s.relayValues.changed ops) s) := h
    exact written.of_editing (State.editing_of_globals (Calm.refl _).grantWaiters.globals)
  | noticeSet ops passes =>
    have written : ClaimConsistent (s.modNotice fun n => n.changed ops) := h
    exact written.of_editing (State.editing_of_globals (withdrawIfEnded_globals _))
  | noticeAcked => exact h.of_editing (State.editing_of_globals (withdrawIfEnded_globals _))
  | configured => exact h
  | broughtUp => exact h
  | takenDown k ops polled => exact h.of_editing (State.editing_of_globals (lineDown_globals _ _ _))
  | cleared => exact .of_free rfl rfl rfl rfl

theorem claimConsistent_heldInReset (p : Straps) : ClaimConsistent (State.heldInReset p) := .of_free rfl rfl rfl rfl

theorem claimConsistent_powerOn (p : Straps) : ClaimConsistent (State.powerOn p) := .of_free rfl rfl rfl rfl

/-- Settles O8: only the holder's commands edit the shadow or start the lease, and the end of the claim reloads
the shadow. -/
theorem freeClaimShadowIsActive : Obligations.FreeClaimShadowIsActive := fun _ _ h e =>
  invariant_step (fun _ _ h => h) claimConsistent_heldInReset claimConsistent_powerOn (fun _ _ c h => h.change c) h e

theorem ActiveTableChecked.of_active (h : ActiveTableChecked s) (e : t.route.active = s.route.active) :
    ActiveTableChecked t := by
  unfold ActiveTableChecked
  rw [e]
  exact h

theorem ActiveTableChecked.of_editing (h : ActiveTableChecked s) (e : t.editing = s.editing) :
    ActiveTableChecked t := by
  simp only [State.editing, Prod.mk.injEq] at e
  exact h.of_active e.2.2.2.2

/-- A table that passes the commit check is checked (R76). -/
theorem checked_of_commitFailure {table : RouteTable} (passes : commitFailure table = none) :
    ∀ e ∈ table.toList, e.valid = true → e.low ≤ e.high ∧
      (e.rewrite = .shift → e.base.toNat + (e.high.toNat - e.low.toNat) ≤ 0xFFFF) := by
  intro e member valid
  obtain ⟨n, lt, rfl⟩ := List.getElem_of_mem member
  have ok := commitFailure_eq_none_iff.mp passes ⟨n, by simpa using lt⟩
  have entry : table.toList[n] = table.get ⟨n, by simpa using lt⟩ := by simp [Vector.get_eq_getElem]
  rw [entry] at valid ⊢
  simp only [RouteEntry.commitOk, valid, Bool.not_true, Bool.false_or, Bool.and_eq_true, Bool.or_eq_true,
    decide_eq_true_eq] at ok
  refine ⟨ok.1, fun shift => ?_⟩
  rcases ok.2 with keep | fits
  · rw [shift] at keep; cases keep
  · exact fits

theorem ActiveTableChecked.change (c : Change s t) (h : ActiveTableChecked s) : ActiveTableChecked t := by
  cases c with
  | traffic r => exact h.of_editing (State.editing_of_globals r.globals)
  | leaseStarts => exact h
  | cached => exact h
  | claimed => exact h
  | claimEnds => exact h
  | shadowEdited => exact h
  | committed passes => exact checked_of_commitFailure passes
  | polls => exact h
  | relaySet ops passes =>
    have written : ActiveTableChecked (writeRelayValues (s.relayValues.changed ops) s) := h
    exact written.of_editing (State.editing_of_globals (Calm.refl _).grantWaiters.globals)
  | noticeSet ops passes =>
    have written : ActiveTableChecked (s.modNotice fun n => n.changed ops) := h
    exact written.of_editing (State.editing_of_globals (withdrawIfEnded_globals _))
  | noticeAcked => exact h.of_editing (State.editing_of_globals (withdrawIfEnded_globals _))
  | configured => exact h
  | broughtUp => exact h
  | takenDown k ops polled => exact h.of_editing (State.editing_of_globals (lineDown_globals _ _ _))
  | cleared => exact h

theorem activeTableChecked_of_powerOn (e : t.route.active = Vector.replicate 64 RouteEntry.powerOn) :
    ActiveTableChecked t := by
  intro entry member valid
  rw [e] at member
  have fresh : entry = RouteEntry.powerOn := by simpa using member
  rw [fresh] at valid
  cases valid

/-- Settles O9: the active table is written by a commit alone, after its check. -/
theorem activeTableStaysChecked : Obligations.ActiveTableStaysChecked := fun _ _ h e =>
  invariant_step (fun _ _ h => h) (fun _ => activeTableChecked_of_powerOn rfl)
    (fun _ => activeTableChecked_of_powerOn rfl) (fun _ _ c h => h.change c) h e

end Sys2Proof.Machine
end

section
/-! PROOFS. The invariants of lists, OFF lines, the notice unit and the pool. -/

namespace Sys2Proof.Machine

variable {s t : State} {i : SlotIx} {j k : Line} {ops : List Byte}

/-! ## Properties of every line's lists -/

theorem LineRec.restarted_cases (l : LineRec) : l.restarted = { l with counters := Vector.replicate 16 0#16 } ∨
    l.config.mode ≠ .off ∧ l.restarted =
      { LineRec.emptied (decide (l.config.mode = .polled)) { l with counters := Vector.replicate 16 0#16 } with
        state := .active, rx := Receiver.fresh, turnaround := none, faultTimer := none, recovery := none
        reservation := none } := by
  unfold LineRec.restarted
  dsimp only
  split
  · exact .inl rfl
  · next on => exact .inr ⟨on, rfl⟩

/-- A property of a line's lists and settings that traffic and the commands keep. -/
structure ListInvariant (P : LineRec → Prop) : Prop where
  traffic : ∀ {l l' : LineRec}, LineTraffic l l' → P l → P l'
  lists : ∀ {l l' : LineRec}, l'.lists = l.lists → P l → P l'
  polls : ∀ {l : LineRec} {es : List PollEntry} {pos : Nat}, (l.pollList.length ≤ 16 → es.length ≤ 16) →
    ((l.pollList.map PollEntry.node).Nodup → (es.map PollEntry.node).Nodup) → P l →
    P { l with pollList := es, pollPos := pos }
  configured : ∀ {l : LineRec} {ops : List Byte}, firstOutOfRange ops = none → P l → P (l.configured ops)

namespace ListInvariant
variable {P : LineRec → Prop}

theorem modLine (h : ∀ j, P (s.line j)) {f : LineRec → LineRec} (own : P (f (s.line k))) (j : Line) :
    P ((s.modLine k f).line j) := by
  rw [State.line_modLine]
  split
  · next e => exact e ▸ own
  · exact h j

variable (inv : ListInvariant P)
include inv

theorem calm (c : Calm s t) (h : ∀ j, P (s.line j)) (j : Line) : P (t.line j) := inv.traffic (c.line j).traffic (h j)

theorem lineDown (polled : Bool) (h : ∀ j, P (s.line j)) : ∀ j, P ((lineDown k polled s).line j) := by
  obtain ⟨u, first, second⟩ := lineDown_calm k polled s
  have downed (j : Line) : P ((s.downed k polled).line j) := by
    rw [State.line_downed]
    split
    · exact inv.traffic (LineTraffic.emptied _ _) (inv.lists (by exact rfl) (h j))
    · exact h j
  have flushed := inv.calm first downed
  exact inv.calm second (ListInvariant.modLine flushed (inv.lists (by exact rfl) (flushed k)))

theorem restarted {l : LineRec} (h : P l) : P l.restarted := by
  have counted : P { l with counters := Vector.replicate 16 0#16 } := inv.lists (by exact rfl) h
  rcases l.restarted_cases with e | ⟨-, e⟩
  · rw [e]; exact counted
  · rw [e]; exact inv.lists (by exact rfl) (inv.traffic (LineTraffic.emptied _ _) counted)

theorem change (c : Change s t) (h : ∀ j, P (s.line j)) : ∀ j, P (t.line j) := by
  cases c with
  | traffic r => exact fun j => inv.traffic (r.line j) (h j)
  | leaseStarts => exact h
  | cached => exact h
  | claimed => exact h
  | claimEnds => exact h
  | shadowEdited => exact h
  | committed => exact h
  | polls k es pos length nodes =>
    intro j
    rw [State.line_setLine]
    split
    · exact inv.polls length nodes (h k)
    · exact h j
  | relaySet ops passes =>
    exact inv.calm (Calm.refl (writeRelayValues (s.relayValues.changed ops) s)).grantWaiters h
  | noticeSet => exact fun j => by rw [withdrawIfEnded_line]; exact h j
  | noticeAcked => exact fun j => by rw [withdrawIfEnded_line]; exact h j
  | configured k ops accepted =>
    exact ListInvariant.modLine h (inv.configured (lineSetRefusal_eq_none accepted).1 (h k))
  | broughtUp k ops accepted =>
    exact ListInvariant.modLine h (inv.lists (by exact rfl) (inv.configured (lineSetRefusal_eq_none accepted).1 (h k)))
  | takenDown k ops polled accepted =>
    exact inv.lineDown polled (ListInvariant.modLine h (inv.configured (lineSetRefusal_eq_none accepted).1 (h k)))
  | cleared => exact fun j => by rw [line_clearForRestart]; exact inv.restarted (h j)

end ListInvariant

/-! ## Bounds and uniqueness -/

/-- The bounds of one line's queues and lists (R78, R80, R104, R106, R110). -/
def LineRec.Bounded (l : LineRec) : Prop :=
  l.config.quota ≤ 120 ∧ l.normalQ.length ≤ 120 ∧ l.urgentQ.length ≤ 4 ∧ l.pendingConf.length ≤ 4 ∧
    l.memo.length ≤ 8 ∧ l.pollList.length ≤ 16

/-- No memo source and no poll node of the line stands twice. -/
def LineRec.Unique (l : LineRec) : Prop := (l.memo.map MemoEntry.src).Nodup ∧ (l.pollList.map PollEntry.node).Nodup

theorem length_of_nodes {es fs : List PollEntry} (e : es.map PollEntry.node = fs.map PollEntry.node) :
    es.length = fs.length := by
  simpa using congrArg List.length e

theorem LineRec.bounded_invariant : ListInvariant LineRec.Bounded where
  traffic r h := by
    obtain ⟨quota, normalQ, urgentQ, pendingConf, memo, polls⟩ := h
    refine ⟨r.config ▸ quota, ?_, ?_, ?_, ?_, length_of_nodes r.nodes ▸ polls⟩
    · have := r.normalQ; omega
    · have := r.urgentQ; omega
    · have := r.pendingConf; omega
    · have := r.memo; omega
  lists e h := by
    simp only [LineRec.lists, LineLists.mk.injEq] at e
    obtain ⟨config, normalQ, urgentQ, pendingConf, memo, nodes⟩ := e
    unfold LineRec.Bounded
    rw [config, normalQ, urgentQ, pendingConf, memo, length_of_nodes nodes]
    exact h
  polls length _ h := by
    obtain ⟨quota, normalQ, urgentQ, pendingConf, memo, polls⟩ := h
    exact ⟨quota, normalQ, urgentQ, pendingConf, memo, length polls⟩
  configured allInRange h := by
    obtain ⟨quota, rest⟩ := h
    refine ⟨?_, rest⟩
    have named := fieldInRange_of_named allInRange (n := 7) (by omega)
    simp only [LineRec.configured, LineConfig.changed]
    split
    · next e =>
      have inBound : inRange 1 120 _ = true := named e
      simp only [inRange, Bool.and_eq_true, decide_eq_true_eq] at inBound
      exact inBound.2
    · exact quota

theorem LineRec.unique_invariant : ListInvariant LineRec.Unique where
  traffic r h := ⟨r.sources h.1, r.nodes ▸ h.2⟩
  lists e h := by
    simp only [LineRec.lists, LineLists.mk.injEq] at e
    obtain ⟨-, -, -, -, memo, nodes⟩ := e
    unfold LineRec.Unique
    rw [memo, nodes]
    exact h
  polls _ nodes h := ⟨h.1, nodes h.2⟩
  configured _ h := h

/-- No change lets the agent's queue grow beyond 4 (R131). -/
theorem Change.agentQ (c : Change s t) : t.agent.queue.length ≤ max s.agent.queue.length 4 := by
  have withdrawn (u : State) : (withdrawIfEnded u).agent = u.agent := by
    rcases withdrawIfEnded_cases u with e | e
    · rw [e]
    · rw [e]; rfl
  cases c with
  | traffic r => exact r.agentQ
  | relaySet ops passes => exact (Calm.refl (writeRelayValues (s.relayValues.changed ops) s)).grantWaiters.agentQ
  | noticeSet => rw [withdrawn]; exact Nat.le_max_left _ _
  | noticeAcked => rw [withdrawn]; exact Nat.le_max_left _ _
  | takenDown k ops polled =>
    obtain ⟨u, first, second⟩ := lineDown_calm k polled (s.modLine k (LineRec.configured ops))
    have to_u : u.agent.queue.length ≤ max s.agent.queue.length 4 := first.agentQ
    have from_u : _ ≤ max u.agent.queue.length 4 := second.agentQ
    omega
  | leaseStarts => exact Nat.le_max_left _ _
  | cached => exact Nat.le_max_left _ _
  | claimed => exact Nat.le_max_left _ _
  | claimEnds => exact Nat.le_max_left _ _
  | shadowEdited => exact Nat.le_max_left _ _
  | committed => exact Nat.le_max_left _ _
  | polls => exact Nat.le_max_left _ _
  | configured => exact Nat.le_max_left _ _
  | broughtUp => exact Nat.le_max_left _ _
  | cleared => exact Nat.zero_le _

theorem QueuesBounded.change (c : Change s t) (h : QueuesBounded s) : QueuesBounded t :=
  ⟨LineRec.bounded_invariant.change c h.1, by have := c.agentQ; have := h.2; omega⟩

theorem EntriesUnique.change (c : Change s t) (h : EntriesUnique s) : EntriesUnique t :=
  LineRec.unique_invariant.change c h

theorem LineRec.bounded_powerOn (mgmt : Bool) (r : Option SlotIx) :
    LineRec.Bounded { LineRec.powerOn mgmt with reservation := r } := by
  simp [LineRec.Bounded, LineRec.powerOn, LineConfig.powerOn]

theorem LineRec.unique_powerOn (mgmt : Bool) (r : Option SlotIx) :
    LineRec.Unique { LineRec.powerOn mgmt with reservation := r } := by
  simp [LineRec.Unique, LineRec.powerOn]

theorem queuesBounded_powerOn (p : Straps) : QueuesBounded (State.powerOn p) :=
  ⟨fun k => by rw [State.line_powerOn_eq]; exact LineRec.bounded_powerOn _ _, Nat.zero_le _⟩

theorem entriesUnique_powerOn (p : Straps) : EntriesUnique (State.powerOn p) := fun k => by
  rw [State.line_powerOn_eq]
  exact LineRec.unique_powerOn _ _

/-- Settles O10: bounds and uniqueness are properties of each line's lists, and every list grows through its own
bounded admission. -/
theorem listsStayBoundedAndUnique : Obligations.ListsStayBoundedAndUnique :=
  ⟨fun _ _ h e => invariant_step (fun _ _ h => h)
    (fun p => ⟨fun k => by rw [line_heldInReset]; exact LineRec.bounded_powerOn false none, Nat.zero_le _⟩)
    queuesBounded_powerOn (fun _ _ c h => h.change c) h e,
  fun _ _ h e => invariant_step (fun _ _ h => h)
    (fun p k => by rw [line_heldInReset]; exact LineRec.unique_powerOn false none)
    entriesUnique_powerOn (fun _ _ c h => h.change c) h e⟩

/-! ## OFF lines -/

/-- One line is OFF exactly when its mode is, and then holds nothing and waits for nothing. -/
def OffLineEmpty (s : State) (k : Line) : Prop :=
  ((s.line k).config.mode = .off ↔ (s.line k).state = .off) ∧
    ((s.line k).state = .off → (s.line k).holdsNothing ∧ LineSet.has s.pool.waiters k = false)

theorem OffLineEmpty.of_eq (h : OffLineEmpty s k) (line : t.line k = s.line k)
    (waiters : t.pool.waiters = s.pool.waiters) : OffLineEmpty t k := by
  unfold OffLineEmpty
  rw [line, waiters]
  exact h

theorem OffLineEmpty.of_up (mode : (t.line k).config.mode ≠ .off) (up : (t.line k).state ≠ .off) : OffLineEmpty t k :=
  ⟨iff_of_false mode up, fun off => absurd off up⟩

theorem OffLineEmpty.traffic (r : Traffic s t) (h : OffLineEmpty s k) : OffLineEmpty t k := by
  obtain ⟨mode, rest⟩ := h
  have state := (r.line k).off
  refine ⟨by rw [(r.line k).config, state]; exact mode, fun off => ?_⟩
  have off := state.mp off
  obtain ⟨holds, none⟩ := rest off
  obtain ⟨bare, free⟩ := (LineRec.holdsNothing_iff _).mp holds
  obtain ⟨none', kept⟩ := r.vacant k off none
  exact ⟨(LineRec.holdsNothing_iff _).mpr ⟨r.idle k off bare, kept.trans free⟩, none'⟩

/-- What the pool serves is no matter to an OFF line. -/
theorem Calm.offLine (c : Calm s t) (off : (s.line k).state = .off) (bare : (s.line k).bare)
    (none : LineSet.has s.pool.waiters k = false) : (t.line k).state = .off ∧ (t.line k).bare ∧
      LineSet.has t.pool.waiters k = false ∧ (t.line k).reservation = (s.line k).reservation := by
  obtain ⟨engine, normalQ, urgentQ⟩ := (c.line k).resting (by rw [off]; decide)
  exact ⟨(c.state k).trans off, LineRec.bare_of_eq (c.line k).port engine normalQ urgentQ bare,
    Bool.eq_false_iff.mpr fun e => by simp [c.waiters k e] at none, (c.line k).reservation none⟩

theorem OffLineEmpty.calm (c : Calm s t) (h : OffLineEmpty s k) : OffLineEmpty t k := by
  obtain ⟨mode, rest⟩ := h
  refine ⟨by rw [c.config k, c.state k]; exact mode, fun off => ?_⟩
  obtain ⟨holds, none⟩ := rest ((c.state k).symm.trans off)
  obtain ⟨bare, free⟩ := (LineRec.holdsNothing_iff _).mp holds
  obtain ⟨-, bare', none', kept⟩ := c.offLine ((c.state k).symm.trans off) bare none
  exact ⟨(LineRec.holdsNothing_iff _).mpr ⟨bare', kept.trans free⟩, none'⟩

theorem LineRec.bare_downed (polled : Bool) {l : LineRec} (mode : l.config.mode = .off) :
    (LineRec.emptied polled
      { l with
        state := .off, turnaround := none, faultTimer := none, recovery := none
        rx := Receiver.idleStopped }).bare := by
  rw [LineRec.emptied_eq]
  simp [LineRec.bare, LineRec.holdsNothing, mode]

/-- A line taken down holds nothing and waits for nothing (R21). -/
theorem offLineEmpty_lineDown_same (polled : Bool) (mode : (s.line k).config.mode = .off) :
    OffLineEmpty (lineDown k polled s) k := by
  obtain ⟨u, first, second⟩ := lineDown_calm k polled s
  have own := s.line_downed k k polled
  rw [if_pos rfl] at own
  have off : ((s.downed k polled).line k).state = .off := by rw [own, LineRec.emptied_eq]
  have none : LineSet.has (s.downed k polled).pool.waiters k = false := by
    change LineSet.has (LineSet.erase s.pool.waiters k) k = false
    rw [LineSet.has_erase]
    simp
  obtain ⟨off', bare, none', -⟩ := first.offLine off (by rw [own]; exact LineRec.bare_downed polled mode) none
  have released : OffLineEmpty (u.modLine k fun l => { l with reservation := .none }) k := by
    refine ⟨iff_of_true ?_ ?_, fun _ => ⟨?_, none'⟩⟩
    · rw [← second.config, lineDown_config]; exact mode
    · rw [State.line_modLine_same]; exact off'
    · rw [State.line_modLine_same]; exact bare
  exact released.calm second

theorem offLineEmpty_lineDown_other (polled : Bool) (ne : j ≠ k) (h : OffLineEmpty s j) :
    OffLineEmpty (lineDown k polled s) j := by
  obtain ⟨u, first, second⟩ := lineDown_calm k polled s
  have downed : OffLineEmpty (s.downed k polled) j := by
    unfold OffLineEmpty
    rw [State.line_downed, if_neg ne]
    refine ⟨h.1, fun off => ⟨(h.2 off).1, ?_⟩⟩
    change LineSet.has (LineSet.erase s.pool.waiters k) j = false
    rw [LineSet.has_erase, (h.2 off).2]
    rfl
  exact ((downed.calm first).of_eq (State.line_modLine_ne _ _ _ _ ne) rfl).calm second

theorem OffLinesEmpty.modLine (h : OffLinesEmpty s) {f : LineRec → LineRec} (own : OffLineEmpty (s.modLine k f) k) :
    OffLinesEmpty (s.modLine k f) := fun j => by
  obtain rfl | ne := eq_or_ne j k
  · exact own
  · exact OffLineEmpty.of_eq (h j) (State.line_modLine_ne _ _ _ _ ne) rfl

theorem OffLinesEmpty.change (c : Change s t) (h : OffLinesEmpty s) : OffLinesEmpty t := by
  have withdrawn (u : State) (h : OffLinesEmpty u) : OffLinesEmpty (withdrawIfEnded u) := by
    rcases withdrawIfEnded_cases u with e | e
    · rw [e]; exact h
    · rw [e]; exact h
  cases c with
  | traffic r => exact fun k => OffLineEmpty.traffic r (h k)
  | leaseStarts => exact h
  | cached => exact h
  | claimed => exact h
  | claimEnds => exact h
  | shadowEdited => exact h
  | committed => exact h
  | polls k es pos =>
    refine h.modLine (k := k) (f := fun l => { l with pollList := es, pollPos := pos }) ?_
    unfold OffLineEmpty
    rw [State.line_modLine_same]
    exact h k
  | relaySet ops passes =>
    have written : OffLinesEmpty (writeRelayValues (s.relayValues.changed ops) s) := h
    exact fun k => OffLineEmpty.calm (Calm.refl _).grantWaiters (written k)
  | noticeSet => exact withdrawn _ h
  | noticeAcked => exact withdrawn _ h
  | configured k ops accepted state =>
    refine h.modLine ?_
    unfold OffLineEmpty
    rw [State.line_modLine_same]
    exact ⟨state.symm, (h k).2⟩
  | broughtUp k ops accepted mode =>
    refine h.modLine (.of_up ?_ ?_) <;> rw [State.line_modLine_same]
    · exact mode
    · exact fun e => nomatch e
  | takenDown k ops polled accepted mode =>
    intro j
    obtain rfl | ne := eq_or_ne j k
    · refine offLineEmpty_lineDown_same polled ?_
      rw [State.line_modLine_same]
      exact mode
    · exact offLineEmpty_lineDown_other polled ne (OffLineEmpty.of_eq (h j) (State.line_modLine_ne _ _ _ _ ne) rfl)
  | cleared =>
    intro k
    rcases (s.line k).restarted_cases with e | ⟨on, e⟩
    · have line : (clearForRestart s).line k = _ := (line_clearForRestart s k).trans e
      change OffLineEmpty _ k
      unfold OffLineEmpty
      rw [line]
      exact ⟨(h k).1, fun off => ⟨((h k).2 off).1, by simp [clearForRestart, Pool.restarted, LineSet.has]⟩⟩
    · refine OffLineEmpty.of_up ?_ ?_
      · rw [line_clearForRestart, LineRec.restarted_config]; exact on
      · rw [line_clearForRestart, e]; exact fun e => nomatch e

theorem offLineEmpty_powerOn (mgmt : Bool) (r : Option SlotIx) (reserved : mgmt = false → r = none)
    (line : t.line k = { LineRec.powerOn mgmt with reservation := r }) (waiters : t.pool.waiters = 0#8) :
    OffLineEmpty t k := by
  unfold OffLineEmpty
  rw [line, waiters]
  cases mgmt with
  | true => exact ⟨⟨nofun, nofun⟩, nofun⟩
  | false => exact ⟨iff_of_true rfl rfl, fun _ => ⟨by
    rw [reserved rfl]
    simp [LineRec.holdsNothing, LineRec.powerOn, Receiver.idleStopped, Receiver.fresh], by simp [LineSet.has]⟩⟩

theorem offLinesEmpty_powerOn (p : Straps) : OffLinesEmpty (State.powerOn p) := fun k =>
  offLineEmpty_powerOn _ _ (fun other => if_neg (of_decide_eq_false other)) (State.line_powerOn_eq p k) rfl

/-- Settles O11: an OFF line is kept idle by traffic, and a line comes up or goes down only through LINE-SET. -/
theorem offLinesHoldNothing : Obligations.OffLinesHoldNothing := fun _ _ h e =>
  invariant_step (fun _ _ h => h)
    (fun p k => offLineEmpty_powerOn false none (fun _ => rfl) (line_heldInReset p k) rfl)
    offLinesEmpty_powerOn (fun _ _ c h => h.change c) h e

end Sys2Proof.Machine
end

section
/-! PROOFS. The invariants of the notice unit and of the pool, what every step leaves settled, what every command
leaves of the queue of commands, and the power-on state. -/

namespace Sys2Proof.Machine

variable {s t : State} {i : SlotIx} {j k : Line} {ops : List Byte}

/-! ## The notice unit -/

/-- A record is pending exactly while its count is above 0. -/
def RecordsCounted (records : Vector NoticeRecord 8) : Prop :=
  ∀ q : NoticeKind, (records.get q.code).pending = true ↔ (records.get q.code).count ≠ 0#8

/-- The records with the listed counts subtracted (R169). -/
abbrev recordsAcked (listed : List (NoticeKind × BitVec 8)) (records : Vector NoticeRecord 8) : Vector NoticeRecord 8 :=
  listed.foldl (fun rs p => rs.set p.1.code (NoticeRecord.acked p.2 (rs.get p.1.code))) records

theorem get_ackedRecord (records : Vector NoticeRecord 8) (p q : NoticeKind) (n : BitVec 8) :
    (records.set p.code (NoticeRecord.acked n (records.get p.code))).get q.code =
      if q = p then NoticeRecord.acked n (records.get q.code) else records.get q.code := by
  split
  · next e => subst e; simp [Vector.get_eq_getElem]
  · next ne =>
    have places : p.code.val ≠ q.code.val := fun e => ne (NoticeKind.code_inj (Fin.ext e)).symm
    simp [Vector.get_eq_getElem, Vector.getElem_set_ne _ _ places]

theorem count_acked_iff {n : BitVec 8} {r : NoticeRecord} (counted : r.pending = true ↔ r.count ≠ 0#8)
    (le : n ≤ r.count) : (r.acked n).pending = true ↔ (r.acked n).count ≠ 0#8 := by
  simp only [NoticeRecord.acked, Bool.and_eq_true, decide_eq_true_eq, counted, and_iff_right_iff_imp]
  intro left zero
  have none : n = 0#8 := by rw [zero] at le; bv_omega
  rw [zero, none] at left
  exact left rfl

/-- An acknowledgement keeps a record pending exactly while its count is above 0: each listed kind stands once and
is counted no higher than its record (R169). -/
theorem recordsCounted_acked (listed : List (NoticeKind × BitVec 8)) (records : Vector NoticeRecord 8)
    (counted : RecordsCounted records) (distinct : (listed.map Prod.fst).Nodup)
    (within : ∀ p ∈ listed, p.2 ≤ (records.get p.1.code).count) : RecordsCounted (recordsAcked listed records) := by
  induction listed generalizing records with
  | nil => exact counted
  | cons p rest ih =>
    obtain ⟨fresh, distinct⟩ := List.nodup_cons.mp distinct
    refine ih _ (fun q => ?_) distinct fun x member => ?_
    · rw [get_ackedRecord]
      split
      · next e => subst e; exact count_acked_iff (counted _) (within p List.mem_cons_self)
      · exact counted q
    · have other : x.1 ≠ p.1 := fun e => fresh (e ▸ List.mem_map_of_mem member)
      rw [get_ackedRecord, if_neg other]
      exact within x (List.mem_cons_of_mem p member)

theorem withdrawIfEnded_notice (s : State) : (withdrawIfEnded s).notice = s.notice := by
  rcases withdrawIfEnded_cases s with e | e
  · rw [e]
  · rw [e]; rfl

theorem NoticesConsistent.acked (h : NoticesConsistent s) : NoticesConsistent (s.modNotice NoticeUnit.acked) := by
  obtain ⟨building, -, counted, distinct, within⟩ := h
  exact ⟨building, ⟨nofun, fun e => absurd rfl e⟩, recordsCounted_acked _ _ counted distinct within,
    List.nodup_nil, nofun⟩

theorem noticesConsistent_of_clear (building : t.notice.building = none) (state : t.notice.state = .idle)
    (timer : t.notice.timer = none) (listed : t.notice.listed = [])
    (records : RecordsCounted t.notice.records) : NoticesConsistent t := by
  refine ⟨building, ?_, records, ?_, ?_⟩
  · rw [state, timer]; exact ⟨nofun, fun e => absurd rfl e⟩
  · rw [listed]; exact List.nodup_nil
  · rw [listed]; exact nofun

/-- No record is pending after the power-on clear (R171). -/
theorem recordsCounted_clear : RecordsCounted (Vector.replicate 8 NoticeRecord.clear) := fun q => by
  cases q <;> decide

theorem NoticesConsistent.change (c : Change s t) (h : NoticesConsistent s) : NoticesConsistent t := by
  cases c with
  | traffic r => exact r.notices h
  | leaseStarts => exact h
  | cached => exact h
  | claimed => exact h
  | claimEnds => exact h
  | shadowEdited => exact h
  | committed => exact h
  | polls => exact h
  | relaySet ops passes =>
    have written : NoticesConsistent (writeRelayValues (s.relayValues.changed ops) s) := h
    exact (Calm.refl _).grantWaiters.notices written
  | noticeSet ops passes =>
    have written : NoticesConsistent (s.modNotice fun n => n.changed ops) := h
    exact written.of_notice (withdrawIfEnded_notice _)
  | noticeAcked => exact h.acked.of_notice (withdrawIfEnded_notice _)
  | configured => exact h
  | broughtUp => exact h
  | takenDown k ops polled =>
    obtain ⟨u, first, second⟩ := lineDown_calm k polled (s.modLine k (LineRec.configured ops))
    have before : NoticesConsistent ((s.modLine k (LineRec.configured ops)).downed k polled) := h
    have between : NoticesConsistent (u.modLine k fun l => { l with reservation := none }) := first.notices before
    exact second.notices between
  | cleared => exact noticesConsistent_of_clear rfl rfl rfl rfl recordsCounted_clear

theorem noticesConsistent_heldInReset (p : Straps) : NoticesConsistent (State.heldInReset p) :=
  noticesConsistent_of_clear rfl rfl rfl rfl recordsCounted_clear

theorem noticesConsistent_powerOn (p : Straps) : NoticesConsistent (State.powerOn p) := by
  refine noticesConsistent_of_clear rfl rfl rfl rfl fun q => ?_
  change ((NoticeUnit.powerOn.records.set 0 NoticeRecord.restartedOnce).get q.code).pending = true ↔
    ((NoticeUnit.powerOn.records.set 0 NoticeRecord.restartedOnce).get q.code).count ≠ 0#8
  cases q <;> decide

/-- Settles O13: an event counts a record up where it makes it pending, an emission lists counts as they stand,
and an acknowledgement empties the list as it subtracts. -/
theorem noticesStayConsistent : Obligations.NoticesStayConsistent := fun _ _ h e =>
  invariant_step (fun _ _ h => h) noticesConsistent_heldInReset noticesConsistent_powerOn
    (fun _ _ c h => h.change c) h e

/-! ## The pool -/

/-- A withdrawn request waits no more, and one that stays still has its condition (R160). -/
theorem poolServes_withdrawIfEnded (waiters : s.pool.waiters ≠ 0#8 → s.pool.free.length ≤ s.pool.reserve)
    (waiting : s.pool.noticeWaiting = true → s.pool.free = []) : PoolServes (withdrawIfEnded s) := by
  unfold withdrawIfEnded
  split
  · next emits => exact ⟨waiters, fun e => ⟨waiting e, emits⟩⟩
  · exact ⟨waiters, nofun⟩

theorem PoolServes.lineDown (polled : Bool) (h : PoolServes s) : PoolServes (lineDown k polled s) := by
  have erased : PoolServes (s.modPool fun p => { p with waiters := LineSet.erase p.waiters k }) :=
    ⟨fun e => h.1 (LineSet.erase_ne_zero e), h.2⟩
  have flushed (f : LineRec → LineRec) := (erased.modLine (k := k) (f := f)).flushLine (k := k) (p := polled)
  unfold Machine.lineDown releaseReservation
  dsimp only
  split
  · exact ((flushed _).modLine).releaseRef.noteEvent
  · exact (flushed _).noteEvent

theorem PoolServes.change (c : Change s t) (h : PoolServes s) : PoolServes t := by
  cases c with
  | traffic r => exact r.serves h
  | leaseStarts => exact h
  | cached => exact h
  | claimed => exact h
  | claimEnds => exact h
  | shadowEdited => exact h
  | committed => exact h
  | polls => exact h
  | relaySet ops passes => exact poolServes_grantWaiters fun waiting => h.2 waiting
  | noticeSet ops passes => exact poolServes_withdrawIfEnded h.1 fun waiting => (h.2 waiting).1
  | noticeAcked => exact poolServes_withdrawIfEnded h.1 fun waiting => (h.2 waiting).1
  | configured => exact h
  | broughtUp => exact h
  | takenDown k ops polled => exact (PoolServes.modLine h).lineDown polled
  | cleared => exact ⟨fun e => absurd rfl e, nofun⟩

theorem poolServes_powerOn (p : Straps) : PoolServes (State.powerOn p) := ⟨fun e => absurd rfl e, nofun⟩

/-! ## What a step leaves settled -/

theorem SettingsInRange.reaches (r : Reaches s t) (h : SettingsInRange s) : SettingsInRange t := by
  induction r with
  | refl => exact h
  | tail _ last ih => exact ih.change last

theorem Settled.of_pending (h : Settled s) (cs : List Instr) : Settled { s with pending := cs } :=
  ⟨h.direct, h.polled, h.agent, h.normal, h.low⟩

theorem length_allSlots : allSlots.length = 128 := List.length_finRange

theorem settled_heldInReset (p : Straps) : Settled (State.heldInReset p) := by
  refine Tests.settled_of_empty (fun k => ?_) rfl ⟨rfl, ?_⟩
  · rw [line_heldInReset]; exact ⟨rfl, rfl, rfl, rfl, .inl rfl⟩
  · change 12 ≤ allSlots.length
    rw [length_allSlots]
    omega

theorem settled_powerOn (p : Straps) : Settled (State.powerOn p) := by
  refine Tests.settled_of_empty (fun k => ?_) rfl ⟨rfl, ?_⟩
  · rw [State.line_powerOn_eq]; exact ⟨rfl, rfl, rfl, rfl, .inl rfl⟩
  · change 12 ≤ allSlots.tail.length
    rw [List.length_tail, length_allSlots]
    omega

/-- A command's event either cannot take place, or ends settled. -/
theorem exec_settled {c : Instr} (range : SettingsInRange s) (h : Settled s) (e : exec c s = .next t) : Settled t := by
  by_cases assert : c = .rstnAssert
  · subst assert; cases e; exact (settled_heldInReset _).of_pending _
  · by_cases release : ∃ a m, c = .rstnRelease a m
    · obtain ⟨addr, msel, rfl⟩ := release; cases e; exact (settled_powerOn _).of_pending _
    · rcases exec_reaches assert (fun addr msel e => release ⟨addr, msel, e⟩) e with same | ⟨u, r, settled⟩
      · exact same ▸ h
      · rw [settled]
        obtain ⟨-, -, -, -, -, -, -, marks, -⟩ := range.reaches r
        exact settle_settled u (Nat.le_of_lt marks)

/-- Settles O14: every release serves the pool until it grants no more, and every event runs until no line, agent
or pool state is left to act. -/
theorem poolLeavesNoneUnserved : Obligations.PoolLeavesNoneUnserved :=
  ⟨fun _ _ h e => invariant_step (fun _ _ h => h) (fun _ => ⟨fun e => absurd rfl e, nofun⟩) poolServes_powerOn
    (fun _ _ c h => h.change c) h e,
  fun s t range h e => by
    unfold step at e
    split at e
    · cases e; exact h
    · next cs _ =>
      have range' : SettingsInRange { s with pending := cs } := range
      exact exec_settled range' (h.of_pending cs) e⟩

/-! ## Every command completes -/

theorem State.pending_of_globals (e : t.globals = s.globals) : t.pending = s.pending := congrArg Globals.pending e

theorem Change.pending (c : Change s t) : t.pending = s.pending := by
  cases c with
  | traffic r => exact State.pending_of_globals r.globals
  | relaySet ops passes =>
    exact (State.pending_of_globals (Calm.refl (writeRelayValues _ s)).grantWaiters.globals).trans rfl
  | noticeSet ops passes =>
    exact (State.pending_of_globals (withdrawIfEnded_globals (s.modNotice _))).trans rfl
  | noticeAcked => exact State.pending_of_globals (withdrawIfEnded_globals (s.modNotice NoticeUnit.acked))
  | takenDown k ops polled => exact State.pending_of_globals (lineDown_globals _ _ _)
  | leaseStarts => rfl
  | cached => rfl
  | claimed => rfl
  | claimEnds => rfl
  | shadowEdited => rfl
  | committed => rfl
  | polls => rfl
  | configured => rfl
  | broughtUp => rfl
  | cleared => rfl

theorem Reaches.pending (r : Reaches s t) : t.pending = s.pending := by
  induction r with
  | refl => rfl
  | tail _ last ih => exact last.pending.trans ih

theorem event_answers (s : State) (p : Bool) (f : State → State) : ∃ t, event s p f = .next t :=
  ⟨_, rfl⟩

/-- Settles O2: every command but RSTn's is an event, and no change touches the queue of commands. -/
theorem everyCommandCompletes : Obligations.EveryCommandCompletes := by
  intro c s
  by_cases assert : c = .rstnAssert
  · subst assert; exact ⟨_, rfl, rfl⟩
  · by_cases release : ∃ a m, c = .rstnRelease a m
    · obtain ⟨addr, msel, rfl⟩ := release; exact ⟨_, rfl, rfl⟩
    · have notRelease := fun addr msel e => release ⟨addr, msel, e⟩
      obtain ⟨p, f, isEvent⟩ := exec_eq_event c assert notRelease s
      obtain ⟨t, e⟩ := event_answers s p f
      rw [← isEvent] at e
      refine ⟨t, e, ?_⟩
      rcases exec_reaches assert notRelease e with same | ⟨u, r, settled⟩
      · rw [same]
      · rw [settled]
        exact (State.pending_of_globals (Traffic.settled u).globals).trans r.pending

/-! ## The power-on state -/

/-- Settles O5: each invariant holds of the power-on values field by field. -/
theorem powerOnMeetsInvariants : Obligations.PowerOnMeetsInvariants :=
  ⟨fun _ _ _ => rfl,
  fun p => ⟨settingsInRange_powerOn p, keepsWayIn_powerOn p, claimConsistent_powerOn p,
    activeTableChecked_of_powerOn rfl, queuesBounded_powerOn p, entriesUnique_powerOn p, offLinesEmpty_powerOn p,
    windowsWhilePolling_powerOn p, noticesConsistent_powerOn p, poolServes_powerOn p,
    Books.referencesCounted (orderly_powerOn p), Books.placesExclusive (orderly_powerOn p), settled_powerOn p⟩,
  rfl⟩

end Sys2Proof.Machine
end

section
/-! PROOFS. The free list, the round-robin grant, the lookup of the route table, confirmed delivery's ends and the
first look at a frame. -/

namespace Sys2Proof.Machine

variable {s t : State} {i : SlotIx} {j k : Line}

/-! ## The free list and the pool state -/

theorem dropRef_last (h : (s.slot i).holders = 1) :
    (dropRef i s).pool.free = s.pool.free ++ [i] ∧ ((dropRef i s).slot i).holders = 0 := by
  unfold dropRef
  dsimp only
  rw [if_pos h]
  refine ⟨rfl, ?_⟩
  rw [State.modPool_slot, State.slot_modSlot_same]
  dsimp only
  rw [h]

theorem dropRef_shared (h : 1 < (s.slot i).holders) :
    (dropRef i s).pool.free = s.pool.free ∧ ((dropRef i s).slot i).holders = (s.slot i).holders - 1 := by
  unfold dropRef
  dsimp only
  rw [if_neg (by omega), State.slot_modSlot_same]
  exact ⟨rfl, rfl⟩

theorem dropRef_slot_ne {m : SlotIx} (ne : m ≠ i) : (dropRef i s).slot m = s.slot m := by
  unfold dropRef
  dsimp only
  split
  · rw [State.modPool_slot, State.slot_modSlot_ne _ _ _ _ ne]
  · exact State.slot_modSlot_ne _ _ _ _ ne

/-- A NORMAL pool below the low water mark becomes LOW with an event (R48). -/
theorem evaluatePool_falls (normal : s.pool.state = .normal) (below : s.pool.free.length < s.pool.lowMark) :
    evaluatePool s = noteEvent .poolLow none (some (BitVec.ofNat 16 s.pool.free.length))
      (s.modPool fun p => { p with state := .low }) := by
  have low : s.pool.evaluated = .low := by simp [Pool.evaluated, normal, below]
  unfold evaluatePool
  dsimp only
  rw [if_pos ⟨normal, low⟩]
  simp only [State.modPool, low]

/-- A LOW pool at the high water mark becomes NORMAL with none (R48). -/
theorem evaluatePool_rises (low : s.pool.state = .low) (above : s.pool.highMark ≤ s.pool.free.length) :
    evaluatePool s = s.modPool fun p => { p with state := .normal } := by
  have normal : s.pool.evaluated = .normal := by simp [Pool.evaluated, low, above]
  unfold evaluatePool
  dsimp only
  rw [if_neg fun h => by rw [low] at h; exact nomatch h.1]
  simp only [State.modPool, normal]

theorem evaluatePool_stays (h : s.pool.evaluated = s.pool.state) : evaluatePool s = s := by
  unfold evaluatePool
  dsimp only
  rw [if_neg (by rw [h]; rintro ⟨normal, low⟩; rw [normal] at low; cases low)]
  simp only [State.modPool, h]

/-- Settles O31: each clause is one case of `dropRef`, `allocate` or `evaluatePool`. -/
theorem freeListAndPoolState : Obligations.FreeListAndPoolState := by
  refine ⟨⟨fun _ _ => dropRef_last, fun _ _ => dropRef_shared, fun _ _ _ => dropRef_slot_ne, ?_⟩, fun s =>
    ⟨evaluatePool_falls, fun normal above => evaluatePool_stays ?_, evaluatePool_rises,
      fun low below => evaluatePool_stays ?_⟩⟩
  · intro s a i rest e
    exact ⟨_, allocate_of_free e, rfl, State.slot_modSlot_same _ _ _, fun j ne => State.slot_modSlot_ne _ _ _ _ ne⟩
  · simp only [Pool.evaluated, normal, if_neg (Nat.not_lt.mpr above)]
  · simp only [Pool.evaluated, low, if_neg (Nat.not_le.mpr below)]

/-! ## The round-robin grant -/

/-- The line granted next is the first waiter from the line after the one granted last (R45). -/
theorem Pool.nextWaiter_eq_some {p : Pool} (e : p.nextWaiter = some k) : ∃ d : Fin 8,
    k = p.lastGranted + 1 + d ∧ LineSet.has p.waiters (p.lastGranted + 1 + d) = true ∧
      ∀ d' : Fin 8, d' < d → LineSet.has p.waiters (p.lastGranted + 1 + d') = false := by
  have lines : allLines = List.finRange 8 := by decide
  unfold Pool.nextWaiter at e
  rw [lines] at e
  obtain ⟨waits, n, lt, place, before⟩ := List.find?_eq_some_iff_getElem.mp e
  simp only [List.length_map, List.length_finRange] at lt
  simp only [List.getElem_map, List.getElem_finRange] at place before
  refine ⟨⟨n, lt⟩, place.symm, place ▸ waits, fun d' earlier => ?_⟩
  simpa using before d'.val earlier

theorem grantTo_eq {rest : List SlotIx} (free : s.pool.free = i :: rest) : grantTo k s =
    ((s.modPool fun p =>
      { p with free := rest, waiters := LineSet.erase p.waiters k, lastGranted := k }).modSlot i fun x =>
        { x with arrival := some k, holders := 1, retry := 0 }).modLine k fun l =>
          { l with reservation := some i } := grantTo_of_free free

theorem grantOne_of_nextWaiter (can : s.pool.canGrant = true) (next : s.pool.nextWaiter = some k) :
    grantOne s = grantTo k s := by
  unfold grantOne
  rw [if_pos can, next]

/-- Settles O32: the grant is the next waiter's, and what follows it is no matter. -/
theorem grantIsRoundRobin : Obligations.GrantIsRoundRobin := by
  intro s up free waiters
  have can : s.pool.canGrant = true := by simp [Pool.canGrant, free, waiters]
  obtain ⟨k, next⟩ := Pool.nextWaiter_of_waiters waiters
  obtain ⟨d, rfl, waits, before⟩ := Pool.nextWaiter_eq_some next
  obtain ⟨i, rest, e⟩ := List.exists_cons_of_length_pos (Nat.zero_lt_of_lt free)
  obtain ⟨t, done, follows⟩ := event_follows up can ((grantOne_of_nextWaiter can next).trans (grantTo_eq e))
  exact ⟨d, i, rest, t, waits, before, e, by rw [exec_reservationGrant]; exact done, follows⟩

/-! ## The lookup -/

theorem RouteEntry.covers_iff (e : RouteEntry) (d : Addr) : e.covers d = true ↔
    e.valid = true ∧ e.low.toNat ≤ d.toNat ∧ d.toNat ≤ e.high.toNat := by
  simp [RouteEntry.covers, BitVec.le_def, and_assoc]

/-- The lookup takes the covering entry of lowest index (R62). -/
theorem lookup_eq_some_iff (t : RouteTable) (d : Addr) (e : RouteEntry) : lookup t d = some e ↔
    ∃ n : Fin 64, t.get n = e ∧ (t.get n).covers d = true ∧ ∀ m : Fin 64, m < n → (t.get m).covers d = false := by
  unfold lookup
  rw [List.find?_eq_some_iff_getElem]
  constructor
  · rintro ⟨covers, n, lt, place, before⟩
    have lt' : n < 64 := by simpa using lt
    have entry : t.get ⟨n, lt'⟩ = e := by rw [← place]; simp [Vector.get_eq_getElem]
    refine ⟨⟨n, lt'⟩, entry, entry ▸ covers, fun m earlier => ?_⟩
    simpa [Vector.get_eq_getElem] using before m.val earlier
  · rintro ⟨n, rfl, covers, before⟩
    refine ⟨covers, n.val, by simp, by simp [Vector.get_eq_getElem], fun m earlier => ?_⟩
    have none := before ⟨m, by omega⟩ earlier
    simpa [Vector.get_eq_getElem] using none

theorem lookup_eq_none_iff (t : RouteTable) (d : Addr) :
    lookup t d = none ↔ ∀ n : Fin 64, (t.get n).covers d = false := by
  unfold lookup
  rw [List.find?_eq_none]
  refine ⟨fun h n => ?_, fun h e member => ?_⟩
  · have entry : t.get n ∈ t.toList := by simp [Vector.get_eq_getElem]
    simpa using h _ entry
  · obtain ⟨n, lt, rfl⟩ := List.getElem_of_mem member
    have none := h ⟨n, by simpa using lt⟩
    simpa [Vector.get_eq_getElem] using none

theorem RouteEntry.valid_of_covers {e : RouteEntry} {d : Addr} (h : e.covers d = true) : e.valid = true :=
  ((e.covers_iff d).mp h).1

/-- The fields of entries that are not valid make no difference to a lookup (R56). -/
theorem lookup_congr_some {t u : RouteTable} {d : Addr} {e : RouteEntry}
    (same : ∀ n : Fin 64, ((t.get n).valid = true ∨ (u.get n).valid = true) → t.get n = u.get n)
    (found : lookup t d = some e) : lookup u d = some e := by
  obtain ⟨n, entry, covers, before⟩ := (lookup_eq_some_iff t d e).mp found
  have equal := same n (.inl (RouteEntry.valid_of_covers covers))
  refine (lookup_eq_some_iff u d e).mpr ⟨n, equal ▸ entry, equal ▸ covers, fun m earlier => ?_⟩
  by_contra covered
  rw [Bool.not_eq_false] at covered
  rw [← same m (.inr (RouteEntry.valid_of_covers covered)), before m earlier] at covered
  cases covered

/-- Settles O36, by the lookup's two characterisations. -/
theorem lookupTakesFirstCoveringEntry : Obligations.LookupTakesFirstCoveringEntry := by
  refine ⟨⟨RouteEntry.covers_iff, ?single, ?all, ?invalid⟩, fun t d => ⟨fun n covers before => ?_,
    (lookup_eq_none_iff t d).mpr⟩⟩
  case single =>
    intro e d valid same
    rw [RouteEntry.covers_iff, ← same]
    refine ⟨fun ⟨_, low, high⟩ => BitVec.eq_of_toNat_eq (by omega), fun e => ⟨valid, ?_⟩⟩
    rw [e]
    exact ⟨Nat.le_refl _, Nat.le_refl _⟩
  case all =>
    intro e d valid low high
    rw [RouteEntry.covers_iff, low, high]
    refine ⟨fun ⟨_, low, high⟩ => ⟨?_, ?_⟩, fun ⟨zero, ones⟩ => ⟨valid, ?_, ?_⟩⟩
    · rintro rfl; exact absurd low (by decide)
    · rintro rfl; exact absurd high (by decide)
    · bv_omega
    · bv_omega
  case invalid =>
    intro t u d same
    refine Option.ext fun e => ⟨lookup_congr_some same, lookup_congr_some fun n valid => (same n valid.symm).symm⟩
  · exact (lookup_eq_some_iff t d _).mpr ⟨n, rfl, covers, before⟩

/-! ## Confirmed delivery -/

theorem Frame.confirmedBy_iff (f c : Frame) :
    f.confirmedBy c = true ↔ c.src = f.dest ∧ c.dest = f.src ∧ c.seq = f.seq := by
  simp [Frame.confirmedBy, and_assoc]

theorem slot?_of_occupied {a : Await} (h : a = .waiting i ∨ a = .due i ∨ a = .resending i) : a.slot? = some i := by
  rcases h with rfl | rfl | rfl <;> rfl

theorem offerConf_of_none {c : Frame} (none : (s.line k).await.slot? = none) :
    offerConf k c s = countLine k .confStale s := by
  unfold offerConf
  rw [none]

theorem offerConf_matching {c : Frame} (slot : (s.line k).await.slot? = some i)
    (confirmed : (s.frame i).confirmedBy c = true) :
    offerConf k c s = releaseRef i (s.setLine k { s.line k with await := .empty, confirmTimer := none }) := by
  unfold offerConf
  rw [slot]
  dsimp only
  rw [if_pos confirmed]
  rfl

theorem offerConf_stale {c : Frame} (slot : (s.line k).await.slot? = some i)
    (stale : (s.frame i).confirmedBy c ≠ true) : offerConf k c s = countLine k .confStale s := by
  unfold offerConf
  rw [slot]
  dsimp only
  rw [if_neg stale]

theorem countLine_await {c : LineCounter} : ((countLine k c s).line j).await = (s.line j).await :=
  congrArg EngineView.await (countLine_engine j k c s)

theorem countLine_pendingConf {c : LineCounter} : ((countLine k c s).line j).pendingConf = (s.line j).pendingConf :=
  congrArg EngineView.pendingConf (countLine_engine j k c s)

theorem countLine_port {c : LineCounter} : (countLine k c s).port j = s.port j :=
  ((countLine_steady k c s).port j).trans (port_bumpLine s j k c)

theorem memoAccept_known {m : List MemoEntry} {src : Addr} {q : BitVec 4} (known : ∃ e ∈ m, e.src = src) :
    memoAccept m src q = m.filter (fun e => decide (e.src ≠ src)) ++ [{ src := src, seq := q }] := by
  obtain ⟨e, member, same⟩ := known
  have fewer : (m.filter fun e => decide (e.src ≠ src)).length ≠ m.length := fun all =>
    of_decide_eq_true (List.length_filter_eq_length_iff.mp all e member) same
  unfold memoAccept
  dsimp only
  rw [if_neg fun h => fewer h.1]

theorem filter_unknown {m : List MemoEntry} {src : Addr} (unknown : ∀ e ∈ m, e.src ≠ src) :
    m.filter (fun e => decide (e.src ≠ src)) = m :=
  List.filter_eq_self.mpr fun e member => decide_eq_true (unknown e member)

theorem memoAccept_room {m : List MemoEntry} {src : Addr} {q : BitVec 4} (unknown : ∀ e ∈ m, e.src ≠ src)
    (room : m.length < 8) : memoAccept m src q = m ++ [{ src := src, seq := q }] := by
  unfold memoAccept
  dsimp only
  rw [filter_unknown unknown, if_neg fun h => absurd h.2 (Nat.not_le.mpr room)]

theorem memoAccept_full {m : List MemoEntry} {src : Addr} {q : BitVec 4} (unknown : ∀ e ∈ m, e.src ≠ src)
    (full : 8 ≤ m.length) : memoAccept m src q = m.tail ++ [{ src := src, seq := q }] := by
  unfold memoAccept
  dsimp only
  rw [filter_unknown unknown, if_pos ⟨rfl, full⟩]

theorem oweConf_room {e : ConfEntry} (room : (s.line k).pendingConf.length < 4) :
    oweConf k e s = s.modLine k fun l => { l with pendingConf := l.pendingConf ++ [e] } := if_pos room

theorem oweConf_full {e : ConfEntry} (full : 4 ≤ (s.line k).pendingConf.length) :
    oweConf k e s = countLine k .confShed s := if_neg (Nat.not_lt.mpr full)

/-- Settles O29: the await record's three occupied states offer the same slot, and the memo and the pending list
are bounded by their own tests. -/
theorem confirmedDeliveryEnds : Obligations.ConfirmedDeliveryEnds := by
  refine ⟨fun s k c => ⟨fun empty => offerConf_of_none (by rw [empty]; rfl), fun i occupied => ?_⟩,
    fun m src q => ⟨memoAccept_known, memoAccept_room, ?_⟩, fun s k f => ?_⟩
  · have slot := slot?_of_occupied occupied
    rw [← Frame.confirmedBy_iff]
    refine ⟨offerConf_matching slot, fun stale => ?_⟩
    rw [offerConf_stale slot stale]
    exact ⟨rfl, countLine_await⟩
  · rintro e m' rfl unknown full
    exact memoAccept_full unknown full
  · unfold acceptConfirmed
    have pending : ((s.modLine k fun l => { l with memo := memoAccept l.memo f.src f.seq }).line k).pendingConf =
        (s.line k).pendingConf := by rw [State.line_modLine_same]
    refine ⟨fun room => ?_, fun full => ?_, ?_⟩
    · rw [oweConf_room (pending ▸ room), State.line_modLine_same, State.line_modLine_same]
      rfl
    · rw [oweConf_full (pending ▸ full), countLine_pendingConf, pending]
      refine ⟨rfl, ?_⟩
      rw [counter_countLine _ _ _ (by decide), counter_bumpLine, if_pos ⟨rfl, rfl⟩, counter_modLine]
      rfl
    · by_cases room : (s.line k).pendingConf.length < 4
      · rw [oweConf_room (pending ▸ room), State.line_modLine_same, State.line_modLine_same]
      · rw [oweConf_full (pending ▸ Nat.not_lt.mp room)]
        refine (congrArg PortView.memo countLine_port).trans ?_
        change ((s.modLine k _).line k).memo = _
        rw [State.line_modLine_same]

/-! ## The first look -/

theorem Frame.invalid_iff (relay : Addr) (f : Frame) : f.invalid relay = true ↔
    (f.dest = 0#16 ∨ (f.src = 0#16 ∨ f.src = 0xFFFF#16) ∨
      ((f.kind = .conf ∨ f.kind = .poll ∨ f.kind = .nil) ∧ f.len ≠ 0) ∨
      (f.kind = .mgmt ∧ f.len < 2) ∨
      ((f.kind ≠ .mgmt ∧ f.kind ≠ .poll ∧ f.kind ≠ .nil) ∧ f.dest = relay)) := by
  simp only [Frame.invalid, Bool.or_eq_true, Bool.and_eq_true, decide_eq_true_eq, Bool.not_eq_true',
    decide_eq_false_iff_not, not_or, or_assoc]

theorem Frame.wantsConf_iff (f : Frame) :
    f.wantsConf = true ↔ f.kind = .data ∧ f.confirm = true ∧ f.dest ≠ 0xFFFF#16 := by
  simp [Frame.wantsConf, Frame.confirmedData, Config.broadcastAddr, and_assoc]

theorem isDuplicate_iff (m : List MemoEntry) (f : Frame) :
    isDuplicate m f = true ↔ ∃ e ∈ m, e.src = f.src ∧ e.seq = f.seq := by
  simp [isDuplicate]

/-- No consequence of a damaged reply counts a frame INVALID. -/
theorem relayCounter_damagedReply {c : RelayCounter} (discarded : c ≠ .discarded) (unrouted : c ≠ .unrouted) :
    (damagedReply k s).route.counter c = s.route.counter c := by
  have expiry (u : State) : (awaitExpiry k u).route.counter c = u.route.counter c := by
    unfold awaitExpiry
    split
    · split
      · exact (countLine_steady k .txRetry _).relayCounter c discarded unrouted
      · exact ((returnFrame_steady _ _ _).relayCounter c discarded unrouted).trans
          ((countLine_steady k .txReturn _).relayCounter c discarded unrouted)
    · rfl
    · rfl
    · rfl
  unfold damagedReply
  split
  · exact expiry _
  · rfl
  · rfl
  · rfl

theorem decideFrame_invalid (invalid : (s.frame i).invalid s.route.relayAddr = true) :
    decideFrame k i s = damagedReply k (countRelay .invalid s) := if_pos invalid

theorem decideFrame_late (valid : (s.frame i).invalid s.route.relayAddr = false)
    (mode : (s.line k).config.mode = .polled) (closed : (s.line k).window = .closed) :
    decideFrame k i s = countLine k .rxLate s := by
  unfold decideFrame
  rw [valid, mode, closed]
  rfl

/-- A valid frame on a DIRECT line takes the first look outside a window (R103). -/
theorem decideFrame_direct (valid : (s.frame i).invalid s.route.relayAddr = false)
    (mode : (s.line k).config.mode = .direct) : decideFrame k i s = lookAndRoute k i s := by
  unfold decideFrame
  rw [valid, mode]
  rfl

theorem lookAndRoute_consumed {t : State} (look : firstLook k false (s.frame i) s = (t, .consumed)) :
    lookAndRoute k i s = t := by
  unfold lookAndRoute
  rw [look]

theorem lookAndRoute_passed (look : firstLook k false (s.frame i) s = (s, .passed)) :
    lookAndRoute k i s = passToRoute k i s := by
  unfold lookAndRoute
  rw [look]

theorem firstLook_conf {w : Bool} {f : Frame} (kind : f.kind = .conf) :
    firstLook k w f s = (offerConf k f s, .consumed) := by unfold firstLook; rw [kind]

theorem firstLook_poll {w : Bool} {f : Frame} (kind : f.kind = .poll) :
    firstLook k w f s = (countLine k .rxLate s, .consumed) := by unfold firstLook; rw [kind]

theorem firstLook_nil {w : Bool} {f : Frame} (kind : f.kind = .nil) :
    firstLook k w f s = (if w then s else countLine k .rxLate s, .consumed) := by unfold firstLook; rw [kind]

theorem firstLook_duplicate {w : Bool} {f : Frame} (wants : f.wantsConf = true)
    (known : isDuplicate (s.line k).memo f = true) :
    firstLook k w f s = (oweConf k f.confOwed (countLine k .rxDup s), .consumed) := by
  unfold firstLook
  rw [((Frame.wantsConf_iff f).mp wants).1]
  simp [wants, known]

theorem firstLook_data {w : Bool} {f : Frame} (kind : f.kind = .data)
    (new : (f.wantsConf && isDuplicate (s.line k).memo f) = false) : firstLook k w f s = (s, .passed) := by
  unfold firstLook
  rw [kind]
  simp [new]

theorem firstLook_other {w : Bool} {f : Frame}
    (kind : f.kind = .mgmt ∨ f.kind = .mreply ∨ f.kind = .notice ∨ f.kind = .ret) :
    firstLook k w f s = (s, .passed) := by
  unfold firstLook
  rcases kind with e | e | e | e <;> rw [e]

theorem passToRoute_eq (k : Line) (i : SlotIx) (s : State) :
    passToRoute k i s = requestReservation k
      (if ((routeReceived k i (s.setLine k { s.line k with reservation := none })).2 && (s.frame i).wantsConf) = true then
        acceptConfirmed k (s.frame i) (routeReceived k i (s.setLine k { s.line k with reservation := none })).1
      else (routeReceived k i (s.setLine k { s.line k with reservation := none })).1) := rfl

theorem requestReservation_free {rest : List SlotIx} (free : s.pool.free = i :: rest)
    (above : s.pool.reserve < s.pool.free.length) (waiters : s.pool.waiters = 0#8) :
    requestReservation k s =
      ((s.modPool (fun p => { p with free := rest, lastGranted := k })).modSlot i
        (fun x => { x with arrival := some k, holders := 1, retry := 0 })).modLine k
        (fun l => { l with reservation := some i }) := by
  unfold requestReservation
  rw [if_pos ⟨above, waiters⟩, grantTo_eq free]
  have none : LineSet.erase s.pool.waiters k = s.pool.waiters := by rw [waiters, LineSet.erase_zero]
  simp only [State.modPool, none]

theorem requestReservation_waits (wait : s.pool.free.length ≤ s.pool.reserve ∨ s.pool.waiters ≠ 0#8) :
    requestReservation k s = { s with pool := { s.pool with waiters := LineSet.insert s.pool.waiters k } } :=
  if_neg fun h => wait.elim (Nat.not_le.mpr h.1) fun waits => waits h.2

/-- Settles O28: the tests of R12 as they stand, the cases of the first look by the frame's kind, and the two cases
of a request. -/
theorem frameDecisionFirstSteps : Obligations.FrameDecisionFirstSteps := by
  refine ⟨⟨Frame.invalid_iff, fun s k i invalid => ⟨decideFrame_invalid invalid, ?counted⟩⟩,
    fun s k i valid => ⟨decideFrame_late valid, fun mode => ?look⟩, ?passing,
    fun s k i rest free above waiters => requestReservation_free free above waiters,
    fun s k wait => ⟨requestReservation_waits wait, fun j => by rw [LineSet.has_insert, Bool.or_comm]⟩⟩
  case counted =>
    rw [decideFrame_invalid invalid, relayCounter_damagedReply (by decide) (by decide),
      (countRelay_steady .invalid s).relayCounter _ (by decide) (by decide), counter_bumpRelay, if_pos rfl]
  case look =>
    rw [decideFrame_direct valid mode]
    refine ⟨fun conf => lookAndRoute_consumed (firstLook_conf conf), ?_, fun data confirm dest known => ?_,
      fun data new => ?_, fun other => lookAndRoute_passed (firstLook_other other)⟩
    · rintro (poll | nil)
      · exact lookAndRoute_consumed (firstLook_poll poll)
      · exact lookAndRoute_consumed (firstLook_nil nil)
    · exact lookAndRoute_consumed (firstLook_duplicate ((Frame.wantsConf_iff _).mpr ⟨data, confirm, dest⟩)
        ((isDuplicate_iff _ _).mpr known))
    · refine lookAndRoute_passed (firstLook_data data (Bool.eq_false_iff.mpr fun both => new ?_))
      rw [Bool.and_eq_true, Frame.wantsConf_iff, isDuplicate_iff] at both
      obtain ⟨⟨-, confirm, dest⟩, known⟩ := both
      exact ⟨confirm, dest, known⟩
  case passing =>
    intro s k i
    dsimp only
    rw [passToRoute_eq]
    refine ⟨fun admitted data confirm dest => ?_, fun not => ?_⟩
    · rw [if_pos (by rw [admitted, (Frame.wantsConf_iff _).mpr ⟨data, confirm, dest⟩]; rfl)]
    · rw [if_neg fun both => not ?_]
      rwa [Bool.and_eq_true, Frame.wantsConf_iff] at both

end Sys2Proof.Machine
end

section
/-! PROOFS. The route unit's decision on a received frame, case by case. -/

namespace Sys2Proof.Machine

variable {s t : State} {i : SlotIx} {j k : Line} {e : RouteEntry}

/-! ## The decision -/

/-- A frame that is neither a command to this relay nor a broadcast is looked up (R60, R61). -/
theorem decideReceived_entry {r : RouteUnit} {f : Frame} (relay : f.dest ≠ r.relayAddr) (node : f.dest ≠ 0xFFFF#16)
    (found : lookup r.active f.dest = some e) : decideReceived r k f = e.verdict k f.dest := by
  unfold decideReceived
  rw [if_neg (by rintro (same | ⟨ones, -⟩); exacts [relay same, node ones]), if_neg node, found]

theorem decideReceived_default {r : RouteUnit} {f : Frame} (relay : f.dest ≠ r.relayAddr)
    (node : f.dest ≠ 0xFFFF#16) (none : lookup r.active f.dest = none) :
    decideReceived r k f = decideDefault r.defaultAction k f.dest := by
  unfold decideReceived
  rw [if_neg (by rintro (same | ⟨ones, -⟩); exacts [relay same, node ones]), if_neg node, none]

theorem routeReceived_refused {c : RelayCounter} (verdict : decideReceived s.route k (s.frame i) = .refuse c)
    (other : c ≠ .unrouted) : routeReceived k i s = (releaseRef i (countRelay c s), false) := by
  unfold routeReceived
  rw [verdict]
  dsimp only
  rw [if_neg other]

theorem routeReceived_unrouted (verdict : decideReceived s.route k (s.frame i) = .refuse .unrouted) :
    routeReceived k i s =
      (releaseRef i (noteEvent .unrouted (some k) (some (s.frame i).dest) (countRelay .unrouted s)), false) := by
  unfold routeReceived
  rw [verdict]
  rfl

theorem LineRec.admits_iff (l : LineRec) :
    l.admits = true ↔ l.state = .active ∧ l.normalQ.length < l.config.quota := by
  simp [LineRec.admits]

theorem routeReceived_forward {d : Addr} (verdict : decideReceived s.route k (s.frame i) = .forward j d) :
    routeReceived k i s =
      if (s.line j).state = .active ∧ (s.line j).normalQ.length < (s.line j).config.quota then
        ((s.modFrame i fun f => { f with dest := d }).setLine j
          { s.line j with normalQ := (s.line j).normalQ ++ [i] }, true)
      else (releaseRef i (countLine j .qRefused (s.modFrame i fun f => { f with dest := d })), false) := by
  unfold routeReceived
  rw [verdict]
  dsimp only
  unfold admitNormal
  simp only [State.modFrame_line, LineRec.admits_iff]
  split
  · rfl
  · rfl

theorem routeReceived_command (verdict : decideReceived s.route k (s.frame i) = .command) :
    routeReceived k i s = (acceptCommand k i s, false) := by
  unfold routeReceived
  rw [verdict]

theorem routeReceived_broadcast (verdict : decideReceived s.route k (s.frame i) = .broadcast) :
    routeReceived k i s = (broadcast k i s, false) := by
  unfold routeReceived
  rw [verdict]

theorem RouteEntry.verdict_filtered {d : Addr} (out : LineSet.has e.arrivals k = false) :
    e.verdict k d = .refuse .filtered := by simp [RouteEntry.verdict, out]

theorem RouteEntry.verdict_discarded {d : Addr} (within : LineSet.has e.arrivals k = true)
    (target : e.target = .discard) : e.verdict k d = .refuse .discarded := by
  simp [RouteEntry.verdict, within, target]

theorem RouteEntry.verdict_hairpin {d : Addr} (within : LineSet.has e.arrivals k = true)
    (target : e.target = .line k) (hairpin : e.hairpin = false) : e.verdict k d = .refuse .hairpin := by
  simp [RouteEntry.verdict, within, target, hairpin]

theorem RouteEntry.verdict_forward {d : Addr} (within : LineSet.has e.arrivals k = true)
    (target : e.target = .line j) (hairpin : j = k → e.hairpin = true) :
    e.verdict k d = .forward j (e.rewritten d) := by
  simp only [RouteEntry.verdict, within, target]
  by_cases same : j = k
  · simp [same, hairpin same]
  · simp [same]

theorem RouteEntry.rewritten_eq (e : RouteEntry) (d : Addr) :
    e.rewritten d = if e.rewrite = .shift then e.base + (d - e.low) else d := by
  unfold RouteEntry.rewritten
  cases e.rewrite <;> rfl

theorem State.modFrame_dest_self (s : State) (i : SlotIx) :
    (s.modFrame i fun f => { f with dest := (s.frame i).dest }) = s := State.modFrame_self s i _ rfl

/-- Settles O37, by the verdict of the entry and of the default action. -/
theorem receivedFrameIsRouted : Obligations.ReceivedFrameIsRouted := by
  refine ⟨fun s k i e relay node found => ?_, fun s k i relay node none => ?_⟩
  · have verdict : decideReceived s.route k (s.frame i) = e.verdict k (s.frame i).dest :=
      decideReceived_entry relay node found
    refine ⟨fun out => ?_, fun within target => ?_, fun within target hairpin => ?_, fun j within target hairpin => ?_,
      fun j target => ?_, fun target => ?_⟩
    · exact routeReceived_refused (verdict.trans (RouteEntry.verdict_filtered out)) (by decide)
    · exact routeReceived_refused (verdict.trans (RouteEntry.verdict_discarded within target)) (by decide)
    · exact routeReceived_refused (verdict.trans (RouteEntry.verdict_hairpin within target hairpin)) (by decide)
    · rw [routeReceived_forward (verdict.trans (RouteEntry.verdict_forward within target hairpin)),
        RouteEntry.rewritten_eq]
    · simp only [decideRelay, found, target, RouteEntry.rewritten_eq]
    · simp only [decideRelay, found, target]
  · have verdict : decideReceived s.route k (s.frame i) = decideDefault s.route.defaultAction k (s.frame i).dest :=
      decideReceived_default relay node none
    refine ⟨fun action => ?_, fun action => ?_, fun j ne action => ?_⟩
    · exact routeReceived_unrouted (verdict.trans (by rw [action]; rfl))
    · exact routeReceived_refused (verdict.trans (by rw [action]; exact if_pos rfl)) (by decide)
    · rw [routeReceived_forward (verdict.trans (by rw [action]; exact if_neg ne)), State.modFrame_dest_self]

theorem acceptCommand_filtered (accepts : (s.line k).config.mgmtAccepted = false) :
    acceptCommand k i s = releaseRef i (countRelay .filtered s) := by
  unfold acceptCommand
  rw [accepts]
  rfl

theorem acceptCommand_room (accepts : (s.line k).config.mgmtAccepted = true) (room : s.agent.queue.length < 4) :
    acceptCommand k i s = { s with agent := { s.agent with queue := s.agent.queue ++ [i] } } := by
  unfold acceptCommand
  rw [accepts]
  exact if_pos room

theorem acceptCommand_full (accepts : (s.line k).config.mgmtAccepted = true) (full : 4 ≤ s.agent.queue.length) :
    acceptCommand k i s = releaseRef i (countRelay .agentFull s) := by
  unfold acceptCommand
  rw [accepts]
  exact if_neg (Nat.not_lt.mpr full)

theorem decideReceived_broadcast {r : RouteUnit} {f : Frame} (relay : r.relayAddr ≠ 0xFFFF#16)
    (ones : f.dest = 0xFFFF#16) (kind : f.kind ≠ .mgmt) : decideReceived r k f = .broadcast := by
  unfold decideReceived
  rw [if_neg, if_pos ones]
  rintro (same | ⟨-, mgmt⟩)
  · exact relay (same ▸ ones)
  · exact kind mgmt

/-- Settles O38: the two tests that stand before the lookup. -/
theorem broadcastsAndCommandsAreNotRouted : Obligations.BroadcastsAndCommandsAreNotRouted := by
  refine ⟨fun s k i relay ones kind => ⟨routeReceived_broadcast (decideReceived_broadcast relay ones kind),
    fun active => decideReceived_broadcast relay ones kind⟩, fun s k i command => ?_⟩
  rw [routeReceived_command (if_pos command)]
  exact ⟨fun accepts => congrArg (·, false) (acceptCommand_filtered accepts),
    fun accepts room => congrArg (·, false) (acceptCommand_room accepts room),
    fun accepts full => congrArg (·, false) (acceptCommand_full accepts full)⟩

end Sys2Proof.Machine
end

section
/-! PROOFS. What the notices and the service of the pool leave alone: every line's counters, and every slot that is
not on the free list. With it, the broadcast rule. -/

namespace Sys2Proof.Machine

variable {a s t : State} {i m : SlotIx} {j k : Line}

/-! ## Counters -/

theorem dropRef_counters (i : SlotIx) (s : State) (j : Line) : ((dropRef i s).line j).counters = (s.line j).counters := by
  rw [dropRef_line]

theorem countRelayInEmission_line (c : RelayCounter) (s : State) (j : Line) :
    (countRelayInEmission c s).line j = s.line j := by
  unfold countRelayInEmission; dsimp only; split <;> rfl

theorem counters_modLine {f : LineRec → LineRec} (keeps : (f (s.line k)).counters = (s.line k).counters) (j : Line) :
    ((s.modLine k f).line j).counters = (s.line j).counters := by
  rw [State.line_modLine]
  split
  · next e => rw [e]; exact keeps
  · rfl

theorem offerUrgent_counters (k : Line) (i : SlotIx) (s : State) (j : Line) :
    ((offerUrgent k i s).1.line j).counters = (s.line j).counters := by
  unfold offerUrgent
  dsimp only
  split
  · exact counters_modLine (by exact rfl) j
  · rfl

theorem routeNotice_counters (i : SlotIx) (s : State) (j : Line) :
    ((routeNotice i s).line j).counters = (s.line j).counters := by
  unfold routeNotice
  split
  · next k d _ =>
    have offered := offerUrgent_counters k i (s.modFrame i fun f => { f with dest := d }) j
    dsimp only
    split
    · exact offered
    · exact (dropRef_counters _ _ _).trans offered
  · rw [dropRef_line, countRelayInEmission_line]
  · rw [dropRef_line, countRelayInEmission_line]

theorem emitNotice_counters (s : State) (j : Line) : ((emitNotice s).line j).counters = (s.line j).counters := by
  rcases e : s.pool.free with _ | ⟨i, rest⟩
  · rw [emitNotice_of_none e]
  · rw [emitNotice_of_free e]
    exact routeNotice_counters i _ j

theorem emissionTest_counters (s : State) (j : Line) : ((emissionTest s).line j).counters = (s.line j).counters := by
  unfold emissionTest
  split
  · split
    · rfl
    · split
      · rfl
      · exact emitNotice_counters s j
  · rfl

theorem noteEvent_counters (q : NoticeKind) (l : Option Line) (v : Option Addr) (s : State) (j : Line) :
    ((noteEvent q l v s).line j).counters = (s.line j).counters := emissionTest_counters _ j

/-- A count changes its own counter alone. -/
theorem countLine_counters (k : Line) (c : LineCounter) (s : State) (j : Line) :
    ((countLine k c s).line j).counters = ((s.bumpLine k c).line j).counters := by
  unfold countLine
  dsimp only
  split
  · exact noteEvent_counters _ _ _ _ j
  · rfl

theorem counter_countLine_any (k : Line) (c : LineCounter) (s : State) (j : Line) (d : LineCounter) :
    ((countLine k c s).line j).counter d =
      if j = k ∧ d = c then satInc ((s.line k).counter c) else (s.line j).counter d := by
  rw [LineRec.counter, countLine_counters, ← counter_bumpLine]
  rfl

theorem grantTo_counters (k : Line) (s : State) (j : Line) : ((grantTo k s).line j).counters = (s.line j).counters := by
  rcases e : s.pool.free with _ | ⟨i, rest⟩
  · rw [grantTo_of_none e]
  · rw [grantTo_eq e]
    exact counters_modLine (by exact rfl) j

theorem grantOne_counters (s : State) (j : Line) : ((grantOne s).line j).counters = (s.line j).counters := by
  unfold grantOne
  split
  · split
    · exact grantTo_counters _ s j
    · rfl
  · rfl

theorem grantWaiters_counters (s : State) (j : Line) : ((grantWaiters s).line j).counters = (s.line j).counters := by
  have grants (xs : List Line) (s : State) :
      ((xs.foldl (fun s _ => grantOne s) s).line j).counters = (s.line j).counters := by
    induction xs generalizing s with
    | nil => rfl
    | cons x xs ih => exact (ih _).trans (grantOne_counters s j)
  exact grants allLines s

theorem serveNotice_counters (s : State) (j : Line) : ((serveNotice s).line j).counters = (s.line j).counters := by
  unfold serveNotice
  split
  · exact emitNotice_counters s j
  · rfl

theorem poolService_counters (s : State) (j : Line) : ((poolService s).line j).counters = (s.line j).counters :=
  (grantWaiters_counters _ j).trans (serveNotice_counters s j)

theorem releaseRef_counters (i : SlotIx) (s : State) (j : Line) :
    ((releaseRef i s).line j).counters = (s.line j).counters :=
  (poolService_counters _ j).trans (dropRef_counters i s j)

/-! ## Slots not on the free list -/

/-- Slot `m` is as it was, and is not on the free list. -/
structure Apart (m : SlotIx) (s t : State) : Prop where
  slot : t.slot m = s.slot m
  out : m ∉ t.pool.free

theorem Apart.refl (out : m ∉ s.pool.free) : Apart m s s := ⟨rfl, out⟩

theorem Apart.of_eq (h : Apart m a s) (slots : t.slots = s.slots) (pool : t.pool.free = s.pool.free) : Apart m a t :=
  ⟨(congrArg (fun v : Vector Slot 128 => v.get m) slots).trans h.slot, pool ▸ h.out⟩

theorem Apart.modSlot_ne (h : Apart m a s) {f : Slot → Slot} (ne : m ≠ i) : Apart m a (s.modSlot i f) :=
  ⟨(State.slot_modSlot_ne _ _ _ _ ne).trans h.slot, h.out⟩

theorem Apart.dropRef_ne (h : Apart m a s) (ne : m ≠ i) : Apart m a (dropRef i s) := by
  refine ⟨(dropRef_slot_ne ne).trans h.slot, ?_⟩
  unfold Machine.dropRef
  dsimp only
  split
  · rw [State.modPool_pool]
    exact fun member => (List.mem_append.mp member).elim h.out fun same => ne (List.mem_singleton.mp same)
  · exact h.out

theorem Apart.routeNotice_ne (h : Apart m a s) (ne : m ≠ i) : Apart m a (routeNotice i s) := by
  have counted (c : RelayCounter) : Apart m a (countRelayInEmission c s) := by
    unfold Machine.countRelayInEmission
    dsimp only
    split <;> exact h.of_eq rfl rfl
  unfold Machine.routeNotice
  split
  · next k d _ =>
    have offered : Apart m a (offerUrgent k i (s.modFrame i fun f => { f with dest := d })).1 := by
      have decided : Apart m a (s.modFrame i fun f => { f with dest := d }) := h.modSlot_ne ne
      unfold Machine.offerUrgent
      dsimp only
      split
      · exact decided.of_eq rfl rfl
      · exact decided
    dsimp only
    split
    · exact offered
    · exact offered.dropRef_ne ne
  · exact (counted _).dropRef_ne ne
  · exact (counted _).dropRef_ne ne

theorem Apart.emitNotice (h : Apart m a s) : Apart m a (emitNotice s) := by
  rcases e : s.pool.free with _ | ⟨i, rest⟩
  · rwa [emitNotice_of_none e]
  · rw [emitNotice_of_free e]
    have out := h.out
    rw [e, List.mem_cons, not_or] at out
    have built : Apart m a (s.noticeBuilt i rest) := ⟨(State.slot_setSlot_ne _ _ _ _ out.1).trans h.slot, out.2⟩
    exact (built.routeNotice_ne out.1).of_eq rfl rfl

theorem Apart.emissionTest (h : Apart m a s) : Apart m a (emissionTest s) := by
  unfold Machine.emissionTest
  split
  · split
    · exact h
    · split
      · exact h.of_eq rfl rfl
      · exact h.emitNotice
  · exact h.of_eq rfl rfl

theorem Apart.noteEvent (h : Apart m a s) {q : NoticeKind} {l : Option Line} {v : Option Addr} :
    Apart m a (noteEvent q l v s) := Apart.emissionTest (h.of_eq rfl rfl)

theorem Apart.countLine (h : Apart m a s) {c : LineCounter} : Apart m a (countLine k c s) := by
  have bumped : Apart m a (s.bumpLine k c) := h.of_eq rfl rfl
  unfold Machine.countLine
  dsimp only
  split
  · exact bumped.noteEvent
  · exact bumped

theorem Apart.countRelay (h : Apart m a s) {c : RelayCounter} : Apart m a (countRelay c s) := by
  have bumped : Apart m a (s.bumpRelay c) := h.of_eq rfl rfl
  unfold Machine.countRelay
  dsimp only
  split
  · exact bumped.noteEvent
  · exact bumped

theorem Apart.grantTo (h : Apart m a s) : Apart m a (grantTo k s) := by
  rcases e : s.pool.free with _ | ⟨i, rest⟩
  · rwa [grantTo_of_none e]
  · rw [grantTo_eq e]
    have out := h.out
    rw [e, List.mem_cons, not_or] at out
    refine ⟨?_, out.2⟩
    rw [State.modLine_slot, State.slot_modSlot_ne _ _ _ _ out.1]
    exact h.slot

theorem Apart.grantOne (h : Apart m a s) : Apart m a (grantOne s) := by
  unfold Machine.grantOne
  split
  · split
    · exact h.grantTo
    · exact h
  · exact h

theorem Apart.grantWaiters (h : Apart m a s) : Apart m a (grantWaiters s) := by
  have grants (xs : List Line) (s : State) (h : Apart m a s) :
      Apart m a (xs.foldl (fun s _ => Machine.grantOne s) s) := by
    induction xs generalizing s with
    | nil => exact h
    | cons x xs ih => exact ih _ h.grantOne
  exact grants allLines s h

theorem Apart.serveNotice (h : Apart m a s) : Apart m a (serveNotice s) := by
  unfold Machine.serveNotice
  split
  · exact h.emitNotice
  · exact h

theorem Apart.poolService (h : Apart m a s) : Apart m a (poolService s) := h.serveNotice.grantWaiters

theorem dropRef_frame (i m : SlotIx) (s : State) : (dropRef i s).frame m = s.frame m := by
  have frame : (s.modSlot i fun x => { x with holders := x.holders - 1 }).frame m = s.frame m := by
    rw [State.frame, State.slot_modSlot]
    split <;> rfl
  unfold dropRef
  dsimp only
  split
  · exact frame
  · exact frame

/-! ## A copy offered to a line -/

theorem LineRec.admits_of_eq {l l' : LineRec} (port : l'.port = l.port) (queue : l'.normalQ = l.normalQ) :
    l'.admits = l.admits := by
  unfold LineRec.admits
  rw [LineRec.state_of_port port, LineRec.config_of_port port, queue]

theorem offerCopy_admitted (admits : (s.line j).admits = true) : offerCopy i s j =
    (s.modLine j fun l => { l with normalQ := l.normalQ ++ [i] }).modSlot i fun x =>
      { x with holders := x.holders + 1 } := by
  unfold offerCopy admitNormal
  rw [if_pos admits]
  rfl

theorem offerCopy_refused (refuses : (s.line j).admits ≠ true) : offerCopy i s j = countLine j .qRefused s := by
  unfold offerCopy admitNormal
  rw [if_neg refuses]
  rfl

theorem offerCopy_normalQ (i : SlotIx) (s : State) (j k : Line) : ((offerCopy i s j).line k).normalQ =
    if k = j ∧ (s.line j).admits = true then (s.line k).normalQ ++ [i] else (s.line k).normalQ := by
  by_cases admits : (s.line j).admits = true
  · rw [offerCopy_admitted admits, State.modSlot_line, State.line_modLine]
    by_cases same : k = j
    · rw [if_pos same, if_pos ⟨same, admits⟩]
    · rw [if_neg same, if_neg fun h => same h.1]
  · rw [offerCopy_refused admits, if_neg fun h => admits h.2]
    exact (countLine_lighter j .qRefused s).queue k

theorem offerCopy_refusals (i : SlotIx) (s : State) (j k : Line) : ((offerCopy i s j).line k).counter .qRefused =
    if k = j ∧ (s.line j).admits ≠ true then satInc ((s.line k).counter .qRefused)
    else (s.line k).counter .qRefused := by
  by_cases admits : (s.line j).admits = true
  · rw [offerCopy_admitted admits, if_neg fun h => h.2 admits, State.modSlot_line]
    exact counter_modLine _ rfl k .qRefused
  · rw [offerCopy_refused admits, counter_countLine_any]
    by_cases same : k = j
    · rw [if_pos ⟨same, rfl⟩, if_pos ⟨same, admits⟩, same]
    · rw [if_neg fun h => same h.1, if_neg fun h => same h.1]

theorem offerCopy_admits (i : SlotIx) (s : State) (ne : k ≠ j) : ((offerCopy i s j).line k).admits = (s.line k).admits := by
  refine LineRec.admits_of_eq ?_ (by rw [offerCopy_normalQ, if_neg fun h => ne h.1])
  by_cases admits : (s.line j).admits = true
  · rw [offerCopy_admitted admits, State.modSlot_line, State.line_modLine_ne _ _ _ _ ne]
  · rw [offerCopy_refused admits]
    exact countLine_port

/-! ## The copies of a broadcast -/

/-- The copies of the frame in slot `i` offered to the lines `js`, in their order (R50). -/
abbrev offerCopies (i : SlotIx) (js : List Line) (s : State) : State := js.foldl (offerCopy i) s

theorem offerCopies_normalQ (i : SlotIx) (js : List Line) (s : State) (once : js.Nodup) (k : Line) :
    ((offerCopies i js s).line k).normalQ =
      if k ∈ js ∧ (s.line k).admits = true then (s.line k).normalQ ++ [i] else (s.line k).normalQ := by
  induction js generalizing s with
  | nil => simp
  | cons j js ih =>
    obtain ⟨fresh, once⟩ := List.nodup_cons.mp once
    rw [offerCopies, List.foldl_cons, ← offerCopies, ih _ once, offerCopy_normalQ]
    by_cases same : k = j
    · subst same; simp [fresh]
    · rw [offerCopy_admits i s same]; simp [same]

theorem offerCopies_refusals (i : SlotIx) (js : List Line) (s : State) (once : js.Nodup) (k : Line) :
    ((offerCopies i js s).line k).counter .qRefused =
      if k ∈ js ∧ (s.line k).admits ≠ true then satInc ((s.line k).counter .qRefused)
      else (s.line k).counter .qRefused := by
  induction js generalizing s with
  | nil => simp
  | cons j js ih =>
    obtain ⟨fresh, once⟩ := List.nodup_cons.mp once
    rw [offerCopies, List.foldl_cons, ← offerCopies, ih _ once, offerCopy_refusals]
    by_cases same : k = j
    · subst same; simp [fresh]
    · rw [offerCopy_admits i s same]; simp [same]

/-- Each admitting line takes one reference of the shared slot (R50). -/
theorem offerCopies_slot (i : SlotIx) (js : List Line) (s : State) (once : js.Nodup) (out : i ∉ s.pool.free) :
    (offerCopies i js s).slot i =
      { s.slot i with holders := (s.slot i).holders + (js.filter fun j => (s.line j).admits).length } ∧
      i ∉ (offerCopies i js s).pool.free := by
  induction js generalizing s with
  | nil => exact ⟨rfl, out⟩
  | cons j js ih =>
    obtain ⟨fresh, once⟩ := List.nodup_cons.mp once
    have later : (js.filter fun k => ((offerCopy i s j).line k).admits) = js.filter fun k => (s.line k).admits :=
      List.filter_congr fun k member => offerCopy_admits i s fun e => fresh (e ▸ member)
    have first : (offerCopy i s j).slot i =
        { s.slot i with holders := (s.slot i).holders + if (s.line j).admits = true then 1 else 0 } ∧
        i ∉ (offerCopy i s j).pool.free := by
      by_cases admits : (s.line j).admits = true
      · rw [offerCopy_admitted admits, if_pos admits]
        exact ⟨State.slot_modSlot_same _ _ _, out⟩
      · rw [offerCopy_refused admits, if_neg admits]
        have counted := (Apart.refl out).countLine (k := j) (c := .qRefused)
        exact ⟨counted.slot, counted.out⟩
    rw [offerCopies, List.foldl_cons, ← offerCopies]
    obtain ⟨slot, out⟩ := ih (offerCopy i s j) once first.2
    refine ⟨?_, out⟩
    rw [slot, first.1, later, List.filter_cons]
    split <;> simp [Nat.add_assoc, Nat.add_comm 1]

/-- Where no line admits the copy, each of them counts Q_REFUSED (R50). -/
theorem offerCopies_refused (i : SlotIx) (js : List Line) (s : State) (once : js.Nodup)
    (none : ∀ j ∈ js, (s.line j).admits ≠ true) :
    offerCopies i js s = js.foldl (fun v j => countLine j .qRefused v) s := by
  induction js generalizing s with
  | nil => rfl
  | cons j js ih =>
    obtain ⟨fresh, once⟩ := List.nodup_cons.mp once
    have refused := offerCopy_refused (i := i) (none j List.mem_cons_self)
    rw [offerCopies, List.foldl_cons, List.foldl_cons, ← offerCopies, ← refused]
    refine ih _ once fun k member => ?_
    have other : k ≠ j := fun e => fresh (e ▸ member)
    rw [offerCopy_admits i s other]
    exact none k (List.mem_cons_of_mem j member)

/-! ## The broadcast rule -/

theorem filter_has_erase (w : LineSet) (k : Line) : allLines.filter (LineSet.has (LineSet.erase w k)) =
    allLines.filter fun j => LineSet.has w j && decide (j ≠ k) :=
  List.filter_congr fun j _ => by rw [LineSet.has_erase, decide_not]

theorem filter_has_nil_iff (w : LineSet) : allLines.filter (LineSet.has w) = [] ↔ w = 0#8 := by
  refine ⟨fun nil => ?_, fun zero => ?_⟩
  · by_contra some
    obtain ⟨k, has⟩ := LineSet.exists_has some
    exact List.filter_eq_nil_iff.mp nil k (mem_allLines k) has
  · rw [zero]
    exact List.filter_eq_nil_iff.mpr fun k _ => by simp [LineSet.has]

theorem allLines_nodup : allLines.Nodup := by decide

theorem broadcast_shed (shed : (s.frame i).kind ≠ .data ∨ LineSet.erase s.route.broadcastSet k = 0#8 ∨
    s.pool.state = .low) : broadcast k i s = releaseRef i (countRelay .bcastShed s) := if_pos shed

theorem broadcast_shared (kind : (s.frame i).kind = .data) (targets : LineSet.erase s.route.broadcastSet k ≠ 0#8)
    (normal : s.pool.state = .normal) : broadcast k i s =
      releaseRef i (offerCopies i (allLines.filter (LineSet.has (LineSet.erase s.route.broadcastSet k)))
        (s.modFrame i fun f => { f with confirm := false })) := by
  unfold broadcast
  dsimp only
  rw [if_neg]
  rintro (other | none | low)
  · exact other kind
  · exact targets none
  · rw [normal] at low; cases low

/-- Settles O33: each target line is offered the copy once, and the reservation's own reference is dropped last. -/
theorem broadcastSharesOneSlot : Obligations.BroadcastSharesOneSlot := by
  intro s k i targets takers
  have all : targets = allLines.filter (LineSet.has (LineSet.erase s.route.broadcastSet k)) :=
    (filter_has_erase _ k).symm
  have none : targets = [] ↔ LineSet.erase s.route.broadcastSet k = 0#8 := by rw [all]; exact filter_has_nil_iff _
  have once : targets.Nodup := allLines_nodup.filter _
  refine ⟨fun shed => broadcast_shed (by rwa [none] at shed), fun kind some normal => ?_⟩
  have shared := broadcast_shared (k := k) kind (fun e => some (none.mpr e)) normal
  rw [← all] at shared
  have taker (j : Line) : j ∈ takers ↔ j ∈ targets ∧ (s.line j).admits = true := List.mem_filter
  have holds (alone : (s.slot i).holders = 1) (out : i ∉ s.pool.free) :=
    offerCopies_slot i targets (s.modFrame i fun f => { f with confirm := false }) once out
  have slot : (s.modFrame i fun f => { f with confirm := false }).slot i =
      { s.slot i with frame := { s.frame i with confirm := false } } := State.slot_modSlot_same _ _ _
  refine ⟨fun j => ?queue, fun j => ?refusals, fun alone out takes => ?shared, fun alone out nobody => ?released⟩
  case queue =>
    rw [shared, (releaseRef_lighter i _).queue j, offerCopies_normalQ _ _ _ once]
    simp only [taker, State.modFrame_line]
    congr
  case refusals =>
    rw [shared, LineRec.counter, releaseRef_counters, ← LineRec.counter, offerCopies_refusals _ _ _ once]
    have refuser : (j ∈ targets ∧ (s.line j).admits ≠ true) ↔ (j ∈ targets ∧ j ∉ takers) := by rw [taker]; tauto
    simp only [State.modFrame_line, refuser]
  case shared =>
    obtain ⟨copied, out'⟩ := holds alone out
    rw [slot] at copied
    have many : ((offerCopies i targets (s.modFrame i fun f => { f with confirm := false })).slot i).holders =
        takers.length + 1 := by
      rw [copied, Nat.add_comm, ← alone]; rfl
    have some : 0 < takers.length := List.length_pos_iff.mpr takes
    obtain ⟨free, fewer⟩ := dropRef_shared (by rw [many]; omega)
    have kept := (Apart.refl (free ▸ out')).poolService.slot
    rw [shared]
    refine ⟨by rw [releaseRef, kept, fewer, many, Nat.add_sub_cancel], ?_⟩
    calc (releaseRef i (offerCopies i targets _)).frame i
        = (dropRef i (offerCopies i targets _)).frame i := congrArg Slot.frame kept
      _ = (offerCopies i targets _).frame i := dropRef_frame _ _ _
      _ = { s.frame i with confirm := false } := congrArg Slot.frame copied
  case released =>
    intro u
    have refused : offerCopies i targets (s.modFrame i fun f => { f with confirm := false }) = u :=
      offerCopies_refused i targets _ once fun j member admits => by
        have takes : j ∈ takers := (taker j).mpr ⟨member, admits⟩
        rw [nobody] at takes
        cases takes
    obtain ⟨copied, out'⟩ := holds alone out
    have filtered : (targets.filter fun j => ((s.modFrame i fun f => { f with confirm := false }).line j).admits) = [] :=
      nobody
    rw [refused, slot, filtered] at copied
    rw [refused] at out' shared
    obtain ⟨free, zero⟩ := dropRef_last (s := u) (i := i) (by rw [copied]; exact alone)
    exact ⟨shared, zero, out', free⟩

end Sys2Proof.Machine
end

section
/-! PROOFS. A reply in a window: what it makes of windows and presence, and the equations of presence, the await
record's expiry and the steps of a reply. -/

namespace Sys2Proof.Machine

variable {a s t : State} {i : SlotIx} {j k : Line} {node : Addr}

/-! ## Windows and poll lists -/

/-- Every line's window and poll list are as they were. -/
def Rolls (s t : State) : Prop := ∀ j, (t.line j).window = (s.line j).window ∧ (t.line j).pollList = (s.line j).pollList

theorem Rolls.refl (s : State) : Rolls s s := fun _ => ⟨rfl, rfl⟩

theorem Rolls.trans (h : Rolls a s) (g : Rolls s t) : Rolls a t := fun j =>
  ⟨(g j).1.trans (h j).1, (g j).2.trans (h j).2⟩

theorem Rolls.of_port (h : Rolls a s) (port : ∀ j, t.port j = s.port j) : Rolls a t :=
  h.trans fun j => ⟨congrArg PortView.window (port j), congrArg PortView.pollList (port j)⟩

theorem Rolls.steady (h : Rolls a s) (g : Steady s t) : Rolls a t := h.of_port g.port

theorem Rolls.modLine (h : Rolls a s) {f : LineRec → LineRec} (window : (f (s.line k)).window = (s.line k).window)
    (polls : (f (s.line k)).pollList = (s.line k).pollList) : Rolls a (s.modLine k f) := h.trans fun j => by
  rw [State.line_modLine]
  split
  · next e => rw [e]; exact ⟨window, polls⟩
  · exact ⟨rfl, rfl⟩

theorem Rolls.countLine (h : Rolls a s) {c : LineCounter} : Rolls a (countLine k c s) := h.of_port fun _ => countLine_port

theorem Rolls.countRelay (h : Rolls a s) {c : RelayCounter} : Rolls a (countRelay c s) := 
  have bumped : Rolls a (s.bumpRelay c) := h
  bumped.steady (countRelay_steady c s)

theorem Rolls.noteEvent (h : Rolls a s) {q : NoticeKind} {l : Option Line} {v : Option Addr} :
    Rolls a (noteEvent q l v s) :=
  have recorded : Rolls a (recordEvent q l v s) := h
  recorded.steady (noteEvent_steady q l v s)

theorem Rolls.releaseRef (h : Rolls a s) : Rolls a (releaseRef i s) := h.steady (releaseRef_steady i s)

theorem Rolls.returnFrame (h : Rolls a s) {r : Reason} : Rolls a (returnFrame r i s) := h.steady (returnFrame_steady r i s)

theorem Rolls.awaitExpiry (h : Rolls a s) : Rolls a (awaitExpiry k s) := by
  unfold Machine.awaitExpiry
  split
  · next i _ =>
    split
    · have retried : Rolls a (s.modSlot i fun x => { x with retry := x.retry + 1 }) := h
      exact (retried.modLine rfl rfl).countLine
    · exact Rolls.returnFrame (Rolls.countLine (h.modLine rfl rfl))
  · exact h
  · exact h
  · exact h

theorem Rolls.offerConf (h : Rolls a s) {c : Frame} : Rolls a (offerConf k c s) := by
  unfold Machine.offerConf
  split
  · split
    · exact Rolls.releaseRef (h.modLine rfl rfl)
    · exact h.countLine
  · exact h.countLine

theorem Rolls.oweConf (h : Rolls a s) {e : ConfEntry} : Rolls a (oweConf k e s) := by
  unfold Machine.oweConf
  split
  · exact h.modLine rfl rfl
  · exact h.countLine

theorem Rolls.acceptConfirmed (h : Rolls a s) {f : Frame} : Rolls a (acceptConfirmed k f s) :=
  Rolls.oweConf (h.modLine rfl rfl)

theorem Rolls.routeReceived (h : Rolls a s) : Rolls a (routeReceived k i s).1 :=
  h.of_port fun j => ((Calm.refl s).routeReceived.line j).port

theorem Rolls.passToRoute (h : Rolls a s) : Rolls a (passToRoute k i s) := by
  have freed : Rolls a (s.setLine k { s.line k with reservation := none }) :=
    h.modLine (k := k) (f := fun l => { l with reservation := none }) rfl rfl
  rw [passToRoute_eq]
  refine Rolls.steady ?_ (requestReservation_steady k _)
  split
  · exact freed.routeReceived.acceptConfirmed
  · exact freed.routeReceived

theorem Rolls.firstLook (h : Rolls a s) {w : Bool} {f : Frame} : Rolls a (firstLook k w f s).1 := by
  unfold Machine.firstLook
  split
  · exact h.offerConf
  · exact h.countLine
  · dsimp only; split; exacts [h, h.countLine]
  · split
    · exact h.countLine.oweConf
    · exact h
  all_goals exact h

theorem Rolls.returnAbsentAwait (h : Rolls a s) : Rolls a (returnAbsentAwait k node s) := by
  have returned (i : SlotIx) :
      Rolls a (if (s.frame i).dest = node then Machine.returnFrame .absent i (clearAwait k s) else s) := by
    split
    · exact Rolls.returnFrame (h.modLine rfl rfl)
    · exact h
  unfold Machine.returnAbsentAwait
  split
  · exact returned _
  · exact returned _
  · exact h
  · exact h

/-! ## Presence -/

/-- The entries of `node` on line `k`'s poll list changed by `f`. -/
abbrev State.entryChanged (s : State) (k : Line) (node : Addr) (f : PollEntry → PollEntry) : State :=
  s.setLine k { s.line k with pollList := updateEntry node f (s.line k).pollList }

theorem State.entryChanged_none {f : PollEntry → PollEntry} (none : findEntry node (s.line k).pollList = none) :
    updateEntry node f (s.line k).pollList = (s.line k).pollList := by
  have absent : ∀ e ∈ (s.line k).pollList, e.node ≠ node := fun e member same =>
    List.find?_eq_none.mp none e member (decide_eq_true same)
  unfold updateEntry
  conv_rhs => rw [← List.map_id (s.line k).pollList]
  exact List.map_congr_left fun e member => if_neg (absent e member)

theorem presenceGood_found {e : PollEntry} (found : findEntry node (s.line k).pollList = some e) :
    presenceGood k node s = if e.isAbsent then noteEvent .nodeFound (some k) (some node)
      (s.entryChanged k node PollEntry.reset) else s.entryChanged k node PollEntry.reset := by
  unfold presenceGood
  dsimp only
  rw [found]
  rfl

theorem presenceGood_none (none : findEntry node (s.line k).pollList = none) : presenceGood k node s = s := by
  unfold presenceGood
  dsimp only
  rw [none]

theorem presenceMiss_found {e : PollEntry} (found : findEntry node (s.line k).pollList = some e) :
    presenceMiss k node s =
      if !e.isAbsent && (e.afterMiss (s.line k).config.missLimit).isAbsent then
        returnAbsentAwait k node (noteEvent .nodeLost (some k) (some node)
          (s.entryChanged k node (PollEntry.afterMiss (s.line k).config.missLimit)))
      else s.entryChanged k node (PollEntry.afterMiss (s.line k).config.missLimit) := by
  unfold presenceMiss
  dsimp only
  rw [found]
  rfl

theorem presenceMiss_none (none : findEntry node (s.line k).pollList = none) : presenceMiss k node s = s := by
  unfold presenceMiss
  dsimp only
  rw [none]

theorem PollEntry.isAbsent_iff (e : PollEntry) : e.isAbsent = true ↔ e.presence = .absent := by
  simp [PollEntry.isAbsent]

theorem PollEntry.afterMiss_of_absent {e : PollEntry} {limit : Nat} (absent : e.presence = .absent) :
    e.afterMiss limit = e := by
  unfold PollEntry.afterMiss
  rw [absent]

theorem PollEntry.afterMiss_of_present {e : PollEntry} {limit : Nat} (present : e.presence ≠ .absent) :
    e.afterMiss limit =
      { e with miss := e.miss + 1, presence := if limit ≤ e.miss + 1 then .absent else .suspect } := by
  unfold PollEntry.afterMiss
  split
  · next e => exact absurd e present
  · rfl
  · rfl

/-- A reply of the window's node changes its entry alone (R111). -/
theorem presenceGood_rolls (k : Line) (node : Addr) (s : State) :
    Rolls (s.entryChanged k node PollEntry.reset) (presenceGood k node s) := by
  rcases found : findEntry node (s.line k).pollList with _ | e
  · rw [presenceGood_none found, State.entryChanged, State.entryChanged_none found,
      State.setLine_self _ _ _ rfl]
    exact Rolls.refl s
  · rw [presenceGood_found found]
    split
    · exact (Rolls.refl _).noteEvent
    · exact Rolls.refl _

/-- A miss changes the node's entry alone (R112). -/
theorem presenceMiss_rolls (k : Line) (node : Addr) (s : State) :
    Rolls (s.entryChanged k node (PollEntry.afterMiss (s.line k).config.missLimit)) (presenceMiss k node s) := by
  rcases found : findEntry node (s.line k).pollList with _ | e
  · rw [presenceMiss_none found, State.entryChanged, State.entryChanged_none found,
      State.setLine_self _ _ _ rfl]
    exact Rolls.refl s
  · rw [presenceMiss_found found]
    split
    · exact (Rolls.refl _).noteEvent.returnAbsentAwait
    · exact Rolls.refl _

/-! ## The steps of a reply -/

/-- The window of line `k` closed (R119). -/
abbrev State.windowClosed (s : State) (k : Line) : State :=
  s.setLine k { s.line k with window := .closed, windowTimer := none }

/-- Presence after a valid reply (R125). -/
def replyPresence (k : Line) (i : SlotIx) (o : Origin) (node : Addr) (s : State) : State :=
  if (s.frame i).src = node then presenceGood k node (s.windowClosed k)
  else if o = .poll then presenceMiss k node (s.windowClosed k) else s.windowClosed k

/-- The await record's expiry in a window of origin DATA (R125). -/
def replyExpiry (k : Line) (o : Origin) (s : State) : State := if o = .data then awaitExpiry k s else s

theorem decideFrame_reply {o : Origin} (mode : (s.line k).config.mode = .polled)
    (window : (s.line k).window = .replying o node) (valid : (s.frame i).invalid s.route.relayAddr = false) :
    decideFrame k i s = processReply k i o node s := by
  unfold decideFrame
  rw [valid, mode, window]
  rfl

theorem replyPresence_eq (k : Line) (i : SlotIx) (o : Origin) (node : Addr) (s : State) :
    (if (s.frame i).src = node then presenceGood k node (closeWindow k s)
      else match o with
        | .poll => presenceMiss k node (closeWindow k s)
        | .data => closeWindow k s) = replyPresence k i o node s := by
  unfold replyPresence
  cases o <;> rfl

/-- A valid reply takes the first look after its presence, and the expiry before its routing (R125). -/
theorem processReply_looked {o : Origin} {u : State} {look : Look}
    (looked : firstLook k true (s.frame i) (replyPresence k i o node s) = (u, look)) :
    processReply k i o node s = if look = .consumed then replyExpiry k o u else passToRoute k i (replyExpiry k o u) := by
  have steps := replyPresence_eq k i o node s
  unfold processReply
  dsimp only
  cases o with
  | poll =>
    dsimp only at steps ⊢
    rw [steps, looked]
    cases look <;> rfl
  | data =>
    dsimp only at steps ⊢
    rw [steps, looked]
    cases look <;> rfl

theorem Rolls.replyExpiry (h : Rolls a s) {o : Origin} : Rolls a (replyExpiry k o s) := by
  unfold Machine.replyExpiry
  split
  · exact h.awaitExpiry
  · exact h

theorem processReply_rolls (k : Line) (i : SlotIx) (o : Origin) (node : Addr) (s : State) :
    Rolls (replyPresence k i o node s) (processReply k i o node s) := by
  have looked : Rolls (replyPresence k i o node s) (firstLook k true (s.frame i) (replyPresence k i o node s)).1 :=
    (Rolls.refl _).firstLook
  generalize look : firstLook k true (s.frame i) (replyPresence k i o node s) = found at looked
  rw [processReply_looked look]
  split
  · exact looked.replyExpiry
  · exact looked.replyExpiry.passToRoute

/-- A damaged reply closes its window and changes no poll list. -/
theorem damagedReply_rolls {o : Origin} (window : (s.line k).window = .replying o node) :
    Rolls (s.windowClosed k) (damagedReply k s) := by
  unfold damagedReply
  rw [window]
  cases o with
  | data => exact (Rolls.refl (closeWindow k s)).awaitExpiry
  | poll => exact Rolls.refl (closeWindow k s)

theorem damagedReply_data (window : (s.line k).window = .replying .data node) :
    damagedReply k s = awaitExpiry k (s.windowClosed k) := by
  unfold damagedReply
  rw [window]
  rfl

theorem damagedReply_poll (window : (s.line k).window = .replying .poll node) :
    damagedReply k s = s.windowClosed k := by
  unfold damagedReply
  rw [window]
  rfl

theorem damagedReply_none {o : Origin} (window : (s.line k).window = .closed ∨ (s.line k).window = .opened o node) :
    damagedReply k s = s := by
  unfold damagedReply
  rcases window with e | e <;> rw [e]

theorem line_windowClosed_ne (ne : j ≠ k) : (s.windowClosed k).line j = s.line j := State.line_setLine_ne _ _ _ _ ne

theorem line_windowClosed_same : (s.windowClosed k).line k = { s.line k with window := .closed, windowTimer := none } :=
  State.line_setLine_same _ _ _

theorem pollList_entryChanged_ne {f : PollEntry → PollEntry} (ne : j ≠ k) :
    ((s.entryChanged k node f).line j).pollList = (s.line j).pollList := by
  rw [State.line_setLine_ne _ _ _ _ ne]

/-- What a decided reply makes of the windows and poll lists. -/
theorem decideFrame_presence {o : Origin} (mode : (s.line k).config.mode = .polled)
    (window : (s.line k).window = .replying o node) :
    ((decideFrame k i s).line k).window = .closed ∧
      ((decideFrame k i s).line k).pollList =
        (if (s.frame i).invalid s.route.relayAddr then (s.line k).pollList
         else if (s.frame i).src = node then updateEntry node PollEntry.reset (s.line k).pollList
         else if o = .poll then updateEntry node (PollEntry.afterMiss (s.line k).config.missLimit) (s.line k).pollList
         else (s.line k).pollList) ∧
      ∀ j, j ≠ k → ((decideFrame k i s).line j).pollList = (s.line j).pollList := by
  cases invalid : (s.frame i).invalid s.route.relayAddr with
  | true =>
    have counted := (Rolls.refl s).countRelay (c := .invalid)
    have rolls := damagedReply_rolls ((counted k).1.trans window)
    rw [← decideFrame_invalid invalid] at rolls
    have own := rolls k
    rw [line_windowClosed_same] at own
    refine ⟨own.1, (own.2.trans (counted k).2).trans (if_pos rfl).symm, fun j ne => ?_⟩
    rw [(rolls j).2, line_windowClosed_ne ne, (counted j).2]
  | false =>
    have rolls := processReply_rolls k i o node s
    rw [← decideFrame_reply mode window invalid] at rolls
    unfold replyPresence at rolls
    simp only [Bool.false_eq_true, if_false]
    split at rolls
    · next src =>
      have steps := (presenceGood_rolls k node (s.windowClosed k)).trans rolls
      have own := steps k
      rw [State.line_setLine_same, line_windowClosed_same] at own
      refine ⟨own.1, own.2.trans (if_pos src).symm, fun j ne => ?_⟩
      rw [(steps j).2, pollList_entryChanged_ne ne, line_windowClosed_ne ne]
    · next src =>
      rw [if_neg src]
      split at rolls
      · next poll =>
        have steps := (presenceMiss_rolls k node (s.windowClosed k)).trans rolls
        have own := steps k
        rw [State.line_setLine_same, line_windowClosed_same] at own
        refine ⟨own.1, own.2.trans (if_pos poll).symm, fun j ne => ?_⟩
        rw [(steps j).2, pollList_entryChanged_ne ne, line_windowClosed_ne ne]
      · next data =>
        have own := rolls k
        rw [line_windowClosed_same] at own
        refine ⟨own.1, own.2.trans (if_neg data).symm, fun j ne => ?_⟩
        rw [(rolls j).2, line_windowClosed_ne ne]

/-! ## The await record -/

theorem returnAbsentAwait_same (waits : (s.line k).await = .waiting i ∨ (s.line k).await = .due i)
    (dest : (s.frame i).dest = node) : returnAbsentAwait k node s =
      returnFrame .absent i (s.setLine k { s.line k with await := .empty, confirmTimer := none }) := by
  unfold returnAbsentAwait
  rcases waits with e | e <;> rw [e] <;> exact if_pos dest

theorem returnAbsentAwait_other (waits : (s.line k).await = .waiting i ∨ (s.line k).await = .due i)
    (dest : (s.frame i).dest ≠ node) : returnAbsentAwait k node s = s := by
  unfold returnAbsentAwait
  rcases waits with e | e <;> rw [e] <;> exact if_neg dest

theorem returnAbsentAwait_none (rests : (s.line k).await = .empty ∨ (s.line k).await = .resending i) :
    returnAbsentAwait k node s = s := by
  unfold returnAbsentAwait
  rcases rests with e | e <;> rw [e]

theorem awaitExpiry_retry (waits : (s.line k).await = .waiting i)
    (below : (s.slot i).retry < (s.line k).config.retryLimit) : awaitExpiry k s =
      countLine k .txRetry ((s.modSlot i fun x => { x with retry := x.retry + 1 }).setLine k
        { s.line k with await := .due i, confirmTimer := none }) := by
  unfold awaitExpiry
  rw [waits]
  exact if_pos below

theorem awaitExpiry_return (waits : (s.line k).await = .waiting i)
    (reached : (s.line k).config.retryLimit ≤ (s.slot i).retry) : awaitExpiry k s =
      returnFrame .noConfirm i (countLine k .txReturn
        (s.setLine k { s.line k with await := .empty, confirmTimer := none })) := by
  unfold awaitExpiry
  rw [waits]
  exact if_neg (Nat.not_lt.mpr reached)

theorem awaitExpiry_none (rests : (s.line k).await = .empty ∨ (s.line k).await = .due i ∨
    (s.line k).await = .resending i) : awaitExpiry k s = s := by
  unfold awaitExpiry
  rcases rests with e | e | e <;> rw [e]

theorem PollEntry.afterMiss_facts (limit : Nat) (e : PollEntry) :
    (e.presence = .absent → e.afterMiss limit = e) ∧
    (e.presence ≠ .absent → (e.afterMiss limit).node = e.node ∧ (e.afterMiss limit).miss = e.miss + 1 ∧
      ((e.afterMiss limit).presence = .absent ↔ limit ≤ e.miss + 1) ∧
      ((e.afterMiss limit).presence = .suspect ↔ e.miss + 1 < limit)) ∧
    e.reset = { e with presence := .present, miss := 0 } := by
  refine ⟨PollEntry.afterMiss_of_absent, fun present => ?_, rfl⟩
  rw [PollEntry.afterMiss_of_present present]
  refine ⟨rfl, rfl, ?_, ?_⟩
  · dsimp only; split <;> simp_all
  · dsimp only; split <;> simp_all

theorem findEntry_none_of (unlisted : ∀ e ∈ (s.line k).pollList, e.node ≠ node) :
    findEntry node (s.line k).pollList = none :=
  List.find?_eq_none.mpr fun e member => by simpa using unlisted e member

theorem Steady.memo (h : Steady s t) (j : Line) : (t.line j).memo = (s.line j).memo :=
  congrArg PortView.memo (h.port j)

theorem returnFrame_memo {r : Reason} : ((returnFrame r i s).line j).memo = (s.line j).memo :=
  (returnFrame_steady r i s).memo j

theorem clearAwait_memo : ((clearAwait k s).line j).memo = (s.line j).memo := by
  unfold clearAwait
  rw [State.line_modLine]
  split <;> rfl

theorem returnAbsentAwait_memo : ((returnAbsentAwait k node s).line j).memo = (s.line j).memo := by
  unfold returnAbsentAwait
  split
  · split
    · exact returnFrame_memo.trans clearAwait_memo
    · rfl
  · split
    · exact returnFrame_memo.trans clearAwait_memo
    · rfl
  · rfl
  · rfl

theorem noteEvent_memo {q : NoticeKind} {l : Option Line} {v : Option Addr} :
    ((noteEvent q l v s).line j).memo = (s.line j).memo := (noteEvent_steady q l v s).memo j

theorem memo_entryChanged {f : PollEntry → PollEntry} : ((s.entryChanged k node f).line k).memo = (s.line k).memo := by
  rw [State.line_setLine_same]

theorem presenceGood_memo (k : Line) (node : Addr) (s : State) :
    ((presenceGood k node s).line k).memo = (s.line k).memo := by
  rcases found : findEntry node (s.line k).pollList with _ | e
  · rw [presenceGood_none found]
  · rw [presenceGood_found found]
    split
    · exact noteEvent_memo.trans memo_entryChanged
    · exact memo_entryChanged

theorem presenceMiss_memo (k : Line) (node : Addr) (s : State) :
    ((presenceMiss k node s).line k).memo = (s.line k).memo := by
  rcases found : findEntry node (s.line k).pollList with _ | e
  · rw [presenceMiss_none found]
  · rw [presenceMiss_found found]
    split
    · exact (returnAbsentAwait_memo.trans noteEvent_memo).trans memo_entryChanged
    · exact memo_entryChanged

/-- Presence is settled without a look at the memo. -/
theorem replyPresence_memo (o : Origin) : ((replyPresence k i o node s).line k).memo = (s.line k).memo := by
  have closed : ((s.windowClosed k).line k).memo = (s.line k).memo := by rw [line_windowClosed_same]
  unfold replyPresence
  split
  · exact (presenceGood_memo _ _ _).trans closed
  · split
    · exact (presenceMiss_memo _ _ _).trans closed
    · exact closed

/-- Settles O30: presence first, then the first look, the await record's expiry and the routing, each by its own
cases. -/
theorem replySettlesPresence : Obligations.ReplySettlesPresence := by
  refine ⟨fun s k i o node mode window => decideFrame_presence mode window, PollEntry.afterMiss_facts, ?presence,
    ?await, fun s k o node => ⟨damagedReply_data, damagedReply_poll, damagedReply_none⟩, ?steps⟩
  case presence =>
    intro s k node
    refine ⟨fun e found => ⟨fun absent => ⟨?_, ?_⟩, fun present => ?_, fun present below => ?_,
      fun present reached => ?_⟩, fun none => ⟨presenceGood_none (findEntry_none_of none),
        presenceMiss_none (findEntry_none_of none)⟩⟩
    · rw [presenceGood_found found, if_pos (e.isAbsent_iff.mpr absent)]
      rfl
    · rw [presenceMiss_found found, if_neg (by simp [e.isAbsent_iff.mpr absent])]
      rfl
    · rw [presenceGood_found found, if_neg (by rw [PollEntry.isAbsent_iff]; exact present)]
      rfl
    · rw [presenceMiss_found found, if_neg]
      · rfl
      · rw [PollEntry.afterMiss_of_present present, if_neg (Nat.not_le.mpr below)]
        simp [PollEntry.isAbsent]
    · rw [presenceMiss_found found, if_pos]
      · rfl
      · rw [PollEntry.afterMiss_of_present present, if_pos reached]
        simp [PollEntry.isAbsent, present]
  case await =>
    intro s k node
    exact ⟨fun i waits => ⟨returnAbsentAwait_same waits, returnAbsentAwait_other waits⟩,
      fun i => returnAbsentAwait_none, fun i waits => ⟨awaitExpiry_retry waits, awaitExpiry_return waits⟩,
      fun i => awaitExpiry_none⟩
  case steps =>
    intro s k i o node mode window valid closed p ends duplicate
    have memo : ((replyPresence k i o node s).line k).memo = (s.line k).memo := replyPresence_memo o
    rw [decideFrame_reply mode window valid]
    refine ⟨fun conf => ?_, fun poll => ?_, fun nil => ?_, fun data known => ?_, fun data new => ?_, fun other => ?_⟩
    · rw [processReply_looked (firstLook_conf conf)]; rfl
    · rw [processReply_looked (firstLook_poll poll)]; rfl
    · rw [processReply_looked (firstLook_nil nil)]; rfl
    · obtain ⟨confirm, dest, entry⟩ := known
      rw [processReply_looked (firstLook_duplicate ((Frame.wantsConf_iff _).mpr ⟨data, confirm, dest⟩)
        (by rw [memo]; exact (isDuplicate_iff _ _).mpr entry))]
      rfl
    · rw [processReply_looked (firstLook_data data (Bool.eq_false_iff.mpr fun both => new ?_))]
      · rfl
      · rw [memo, Bool.and_eq_true, Frame.wantsConf_iff, isDuplicate_iff] at both
        obtain ⟨⟨-, confirm, dest⟩, known⟩ := both
        exact ⟨confirm, dest, known⟩
    · rw [processReply_looked (firstLook_other other)]; rfl

end Sys2Proof.Machine
end

section
/-! PROOFS. Selections, turns, transmit completions and confirm timers. -/

namespace Sys2Proof.Machine

variable {s t u : State} {i : SlotIx} {is : List SlotIx} {j k : Line}

/-- What a command answers whose row is an event, can take place and has the effect `u`. -/
theorem answers_of {c : Instr} {p : Bool} {f : State → State} (row : exec c s = event s p f) (up : s.rstnLow = false)
    (possible : p = true) (effect : f s = u) : ∃ t, exec c s = .next t ∧ Follows u t := by
  rw [row]
  exact event_follows up possible effect

theorem Steady.line_config (h : Steady s t) (k : Line) : (t.line k).config = (s.line k).config :=
  LineRec.config_of_port (h.port k)

/-! ## The first three sources -/

theorem State.modLine_sending (s : State) (k : Line) (f : LineRec → LineRec) (x : TxItem) :
    beginTx k x (s.modLine k f) = s.setLine k ((f (s.line k)).sending x) := by
  rw [beginTx_eq, State.modLine_modLine, State.modLine_def]

/-- On a DIRECT line the receiver is left alone (R33). -/
theorem LineRec.sending_direct {l : LineRec} (mode : l.config.mode = .direct) (x : TxItem) :
    l.sending x = { l with tp := some x } := by
  unfold LineRec.sending
  simp [mode]

theorem firstSources_conf {e : ConfEntry} {es : List ConfEntry} (owed : (s.line k).pendingConf = e :: es) :
    firstSources k s = some (s.setLine k (LineRec.sending { s.line k with pendingConf := es } (.conf e.toFrame))) := by
  have first : firstSources k s = some (sendConf k e s) := by
    unfold firstSources
    dsimp only
    rw [owed]
  rw [first, sendConf, State.modLine_sending, owed]
  rfl

theorem firstSources_urgent (owed : (s.line k).pendingConf = []) (urgent : (s.line k).urgentQ = i :: is) :
    firstSources k s = some (s.setLine k (LineRec.sending { s.line k with urgentQ := is } (.urgent i))) := by
  have first : firstSources k s = some (sendUrgent k i s) := by
    unfold firstSources
    dsimp only
    rw [owed, urgent]
  rw [first, sendUrgent, State.modLine_sending, urgent]
  rfl

theorem firstSources_due (owed : (s.line k).pendingConf = []) (urgent : (s.line k).urgentQ = [])
    (due : (s.line k).await = .due i) : firstSources k s =
      some ((s.modSlot i fun x => { x with holders := x.holders + 1 }).setLine k
        (LineRec.sending { s.line k with await := .resending i } (.resend i))) := by
  have first : firstSources k s = some (sendRetry k i s) := by
    unfold firstSources
    dsimp only
    rw [owed, urgent, due]
  rw [first, sendRetry, State.modLine_sending]
  rfl

theorem firstSources_nothing (owed : (s.line k).pendingConf = []) (urgent : (s.line k).urgentQ = [])
    (due : ∀ i, (s.line k).await ≠ .due i) : firstSources k s = none := by
  rw [firstSources_none]
  unfold LineRec.firstEmpty
  rw [owed, urgent]
  cases e : (s.line k).await with
  | due i => exact absurd e (due i)
  | empty => rfl
  | waiting i => rfl
  | resending i => rfl

/-! ## The selection of a DIRECT line -/

theorem LineRec.selects_of {l : LineRec} (active : l.state = .active) (mode : l.config.mode = .direct)
    (tp : l.tp = none) : l.selects = true := by simp [LineRec.selects, active, mode, tp]

theorem selectDirect_first (first : firstSources k s = some u) : selectDirect k s = u := by
  unfold selectDirect
  rw [first]

theorem selectDirect_normal (first : firstSources k s = none) (await : (s.line k).await = .empty)
    (queue : (s.line k).normalQ = i :: is) :
    selectDirect k s = s.setLine k (LineRec.sending { s.line k with normalQ := is } (.normal i)) := by
  have sent : selectDirect k s = sendNormal k i s := by
    unfold selectDirect
    rw [first]
    dsimp only
    rw [await, queue]
  rw [sent, sendNormal, State.modLine_sending, queue]
  rfl

theorem selectDirect_nothing (first : firstSources k s = none)
    (rests : (s.line k).await ≠ .empty ∨ (s.line k).normalQ = []) : selectDirect k s = s := by
  unfold selectDirect
  rw [first]
  dsimp only
  split
  · next await queue =>
    rcases rests with occupied | empty
    · exact absurd await occupied
    · rw [queue] at empty; cases empty
  · rfl

/-- Settles O40: the selection's sources in R82's order. -/
theorem directLineSelectsInOrder : Obligations.DirectLineSelectsInOrder := by
  intro s k up active mode tp answers l
  have answer {u : State} (e : selectDirect k s = u) : answers u :=
    answers_of (exec_transmitSelection s k) up (LineRec.selects_of active mode tp) e
  have direct (f : LineRec) (x : TxItem) (same : f.config = l.config) : f.sending x = { f with tp := some x } :=
    LineRec.sending_direct (by rw [same]; exact mode) x
  refine ⟨fun e es owed => answer ?_, fun i is owed urgent => answer ?_, fun i owed urgent due => answer ?_,
    fun i is owed urgent await queue => answer ?_, fun owed urgent due rests => answer ?_⟩
  · rw [selectDirect_first (firstSources_conf owed), direct]
    · rfl
    · rfl
  · rw [selectDirect_first (firstSources_urgent owed urgent), direct]
    rfl
  · rw [selectDirect_first (firstSources_due owed urgent due), direct]
    rfl
  · have first := firstSources_nothing owed urgent (by rw [await]; exact nofun)
    rw [selectDirect_normal first await queue, direct]
    rfl
  · exact selectDirect_nothing (firstSources_nothing owed urgent due) rests

/-! ## The confirm timer -/

/-- Settles O43: the timer has stopped before the record's expiry, which writes it to stopped again. -/
theorem confirmTimerMakesRetryOrReturn : Obligations.ConfirmTimerMakesRetryOrReturn := by
  intro s k i n up timer await
  have running : (s.line k).confirmTimer.isSome = true := by rw [timer]; rfl
  have stopped : (s.modLine k fun l => { l with confirmTimer := none }).line k =
      { s.line k with confirmTimer := none } := State.line_modLine_same _ _ _
  have waits : ((s.modLine k fun l => { l with confirmTimer := none }).line k).await = .waiting i := by
    rw [stopped]; exact await
  refine ⟨fun below => ?_, fun reached => ?_⟩
  · have expired : awaitExpiry k (s.modLine k fun l => { l with confirmTimer := none }) =
        countLine k .txRetry ((s.modSlot i fun x => { x with retry := x.retry + 1 }).setLine k
          { s.line k with await := .due i, confirmTimer := none }) := by
      rw [awaitExpiry_retry waits (by rw [stopped]; exact below), stopped, State.modLine_def, State.setLine_modSlot,
        State.setLine_setLine]
    obtain ⟨t, done, follows⟩ := answers_of (exec_confirmTimerExpiry s k) up running expired
    refine ⟨t, done, follows, ?_⟩
    rw [follows.counter k _ (by decide), counter_countLine_any, if_pos ⟨rfl, rfl⟩, State.line_setLine_same]
    rfl
  · have expired : awaitExpiry k (s.modLine k fun l => { l with confirmTimer := none }) =
        returnFrame .noConfirm i (countLine k .txReturn
          (s.setLine k { s.line k with await := .empty, confirmTimer := none })) := by
      rw [awaitExpiry_return waits (by rw [stopped]; exact reached), stopped]
      exact congrArg (fun u => returnFrame .noConfirm i (countLine k .txReturn u)) (State.setLine_setLine _ _ _ _)
    obtain ⟨t, done, follows⟩ := answers_of (exec_confirmTimerExpiry s k) up running expired
    refine ⟨t, done, follows, ?_⟩
    rw [follows.counter k _ (by decide), (returnFrame_steady _ _ _).counter k _ (by decide), counter_countLine_any,
      if_pos ⟨rfl, rfl⟩, State.line_setLine_same]
    rfl

/-! ## Transmit completion -/

/-- A transmit completion that is not that of the reply a pending restart waits for. -/
def NotTheReply (s : State) (k : Line) : Prop :=
  s.agent.state ≠ .restartPending ∧ s.agent.restartReply = none ∨
    ∃ r, s.agent.restartReply = some r ∧ (s.line k).tp ≠ some (.urgent r)

theorem NotTheReply.restartIfDue (h : NotTheReply s k) (agent : t.agent = s.agent) : restartIfDue t = t := by
  unfold Machine.restartIfDue
  rw [if_neg]
  rw [agent]
  rcases h with ⟨state, -⟩ | ⟨r, held, -⟩
  · exact fun due => state (Agent.state_of_restartDue due)
  · simp [Agent.restartDue, held]

theorem NotTheReply.noteReplyGone (h : NotTheReply s k) (agent : t.agent = s.agent)
    (tp : (s.line k).tp = some (.urgent i)) : noteReplyGone i t = t := by
  unfold Machine.noteReplyGone
  rw [if_neg]
  rw [agent]
  rcases h with ⟨-, none⟩ | ⟨r, held, other⟩
  · rw [none]; exact fun e => nomatch e
  · rw [held]; exact fun e => other (by rw [tp, Option.some.inj e])

theorem startAwait_eq (mode : (s.line k).config.mode ≠ .off) : startAwait k i s =
    if (s.line k).config.mode = .polled then
      s.modLine k (fun l =>
        { l with
          await := .waiting i, window := .opened .data (s.frame i).dest
          windowTimer := some l.config.replyWindow })
    else s.modLine k (fun l => { l with await := .waiting i, confirmTimer := some l.config.confirmTimeout }) := by
  have config : ((s.modLine k fun l => { l with await := .waiting i }).line k).config = (s.line k).config := by
    rw [State.line_modLine_same]
  unfold startAwait
  dsimp only
  rw [config]
  cases e : (s.line k).config.mode with
  | off => exact absurd e mode
  | polled =>
    rw [if_pos rfl]
    exact State.modLine_modLine _ _ _ _
  | direct =>
    rw [if_neg nofun]
    exact State.modLine_modLine _ _ _ _

theorem disposeTx_agent {x : TxItem} (other : ∀ i, x = .urgent i → noteReplyGone i s = s) :
    (disposeTx k x s).agent = s.agent := by
  have awaited (i : SlotIx) (u : State) : (startAwait k i u).agent = u.agent := by
    unfold startAwait
    dsimp only
    split <;> rfl
  unfold disposeTx
  split
  · rfl
  · rfl
  · next i => rw [releaseRef_agent, other i rfl]
  · split
    · exact awaited _ _
    · exact releaseRef_agent _ _
  · split
    · rw [awaited, releaseRef_agent]
    · exact releaseRef_agent _ _
    · exact releaseRef_agent _ _
    · exact releaseRef_agent _ _

/-- The state in which TX_SENT is counted and the transmit position is empty (R84). -/
def State.txDone (s : State) (k : Line) : State := (countLine k .txSent s).modLine k fun l => { l with tp := none }

theorem txDone_agent : (s.txDone k).agent = s.agent := countLine_agent k .txSent s

theorem txDone_config : ((s.txDone k).line k).config = (s.line k).config := by
  rw [State.txDone, State.line_modLine_same]
  exact LineRec.config_of_port countLine_port

theorem txDone_await : ((s.txDone k).line k).await = (s.line k).await := by
  rw [State.txDone, State.line_modLine_same]
  exact countLine_await

/-- A disposal changes no counter but through Q_REFUSED. -/
theorem counter_disposeTx {x : TxItem} {c : LineCounter} (other : c ≠ .qRefused) :
    ((disposeTx k x s).line j).counter c = (s.line j).counter c := by
  have awaited (i : SlotIx) (u : State) : ((startAwait k i u).line j).counter c = (u.line j).counter c := by
    have waiting := counter_modLine (s := u) (k := k) (fun l => { l with await := .waiting i }) rfl j c
    unfold startAwait
    dsimp only
    split
    · exact (counter_modLine _ (by exact rfl) j c).trans waiting
    · exact (counter_modLine _ (by exact rfl) j c).trans waiting
    · exact waiting
  have released (i : SlotIx) (u : State) : ((releaseRef i u).line j).counter c = (u.line j).counter c :=
    (releaseRef_steady i u).counter j c other
  unfold disposeTx
  split
  · rfl
  · exact counter_modLine _ (by exact rfl) j c
  · next i => rw [released, (noteReplyGone_steady i s).counter j c other]
  · split
    · exact awaited _ _
    · exact released _ _
  · split
    · rw [awaited, released]
    · exact released _ _
    · exact released _ _
    · exact released _ _

theorem Frame.confirmedData_iff (f : Frame) : f.confirmedData = true ↔ f.kind = .data ∧ f.confirm = true := by
  simp [Frame.confirmedData]

/-- Settles O42: what follows TX_SENT is the disposal of the position, and no restart is due. -/
theorem transmitCompletionDisposes : Obligations.TransmitCompletionDisposes := by
  intro s k up active notReply v answers awaiting
  have notReply : NotTheReply s k := notReply
  have answer {x : TxItem} {u : State} (tp : (s.line k).tp = some x) (e : disposeTx k x v = u) : answers u := by
    have gone (i : SlotIx) (urgent : x = .urgent i) : noteReplyGone i v = v :=
      notReply.noteReplyGone txDone_agent (urgent ▸ tp)
    have done : transmitDone k s = u := by
      unfold transmitDone
      rw [tp]
      exact (notReply.restartIfDue ((disposeTx_agent gone).trans txDone_agent)).trans e
    have possible : (decide ((s.line k).state = .active) && (s.line k).tp.isSome) = true := by
      rw [active, tp]; rfl
    obtain ⟨t, answered, follows⟩ := answers_of (exec_transmitCompletion s k) up possible done
    refine ⟨t, answered, follows, ?_⟩
    rw [follows.counter k _ (by decide), ← e, counter_disposeTx (by decide)]
    exact (counter_modLine _ (by exact rfl) k .txSent).trans
      ((counter_countLine_any k .txSent s k .txSent).trans (if_pos ⟨rfl, rfl⟩))
  have mode (on : (s.line k).config.mode ≠ .off) : (v.line k).config.mode ≠ .off := by
    rw [show v = s.txDone k from rfl, txDone_config]; exact on
  have awaits (i : SlotIx) (u : State) (config : (u.line k).config = (s.line k).config)
      (on : (s.line k).config.mode ≠ .off) : startAwait k i u = awaiting i u := by
    rw [startAwait_eq (by rw [config]; exact on), config]
  have await : (v.line k).await = (s.line k).await := txDone_await
  refine ⟨fun f tp => answer tp rfl, fun f tp => answer tp rfl, fun i tp => answer tp ?_,
    fun i tp plain => answer tp ?_, fun i tp on kind confirm => answer tp ?_, fun i tp on again => answer tp ?_,
    fun i tp empty => answer tp ?_⟩
  · exact congrArg (releaseRef i) (notReply.noteReplyGone txDone_agent tp)
  · exact if_neg fun confirmed => plain ((Frame.confirmedData_iff _).mp confirmed)
  · exact (if_pos ((Frame.confirmedData_iff _).mpr ⟨kind, confirm⟩)).trans (awaits i v txDone_config on)
  · unfold disposeTx
    dsimp only
    rw [await, again]
    refine awaits i _ ?_ on
    exact ((releaseRef_steady i v).line_config k).trans txDone_config
  · unfold disposeTx
    dsimp only
    rw [await, empty]

end Sys2Proof.Machine
end

section
/-! PROOFS. The turns of a POLLED line: the normal queue within the burst limit, the search for a poll, and the
passes a search can end. -/

namespace Sys2Proof.Machine

variable {s t u : State} {i : SlotIx} {is : List SlotIx} {k : Line} {l : LineRec} {e : PollEntry} {m n fuel : Nat}

/-! ## The search for a poll -/

theorem PollEntry.eligible_iff (cycle : BitVec 4) (recheck : Nat) (e : PollEntry) :
    e.eligible cycle recheck = true ↔ (e.presence = .absent → cycle.toNat % recheck = 0) := by
  simp only [PollEntry.eligible, Bool.or_eq_true, Bool.not_eq_true', Bool.eq_false_iff, PollEntry.isAbsent_iff,
    decide_eq_true_eq, ne_eq, ← imp_iff_not_or]

theorem PollEntry.eligible_eq_false {cycle : BitVec 4} {recheck : Nat} {e : PollEntry}
    (h : e.presence = .absent ∧ cycle.toNat % recheck ≠ 0) : e.eligible cycle recheck = false := by
  rw [Bool.eq_false_iff, ne_eq, PollEntry.eligible_iff]
  exact fun recheck => h.2 (recheck h.1)

/-- The next poll is the first eligible entry from the poll position on (R116). -/
theorem LineRec.nextPoll_of_eligible (from' : l.pollPos ≤ n) (entry : l.pollList[n]? = some e)
    (eligible : e.eligible l.cycle l.config.recheckCycles = true)
    (before : ∀ m d, l.pollPos ≤ m → m < n → l.pollList[m]? = some d →
      d.eligible l.cycle l.config.recheckCycles = false) : l.nextPoll = some n := by
  obtain ⟨lt, found⟩ := List.getElem?_eq_some_iff.mp entry
  have place : (l.pollList.drop l.pollPos).findIdx? (PollEntry.eligible l.cycle l.config.recheckCycles) =
      some (n - l.pollPos) := by
    rw [List.findIdx?_eq_some_iff_getElem]
    refine ⟨by rw [List.length_drop]; omega, ?_, fun j lower => ?_⟩
    · simp only [List.getElem_drop, Nat.add_sub_cancel' from', found, eligible]
    · simp only [List.getElem_drop, Bool.not_eq_true]
      exact before (l.pollPos + j) _ (by omega) (by omega) (List.getElem?_eq_getElem (by omega))
  rw [LineRec.nextPoll, place, Option.map_some, Nat.add_sub_cancel' from']

theorem LineRec.nextPoll_of_none
    (none : ∀ m d, l.pollPos ≤ m → l.pollList[m]? = some d → d.eligible l.cycle l.config.recheckCycles = false) :
    l.nextPoll = .none := by
  rw [LineRec.nextPoll, Option.map_eq_none_iff, List.findIdx?_eq_none_iff]
  intro d member
  obtain ⟨j, lt, rfl⟩ := List.getElem_of_mem member
  rw [List.getElem_drop]
  rw [List.length_drop] at lt
  exact none (l.pollPos + j) _ (by omega) (List.getElem?_eq_getElem (by omega))

theorem LineRec.nodeAt_of_entry (entry : l.pollList[n]? = some e) : l.nodeAt n = e.node := by
  unfold LineRec.nodeAt
  rw [entry]

theorem pollSearch_rests (rests : (s.line k).pollList = [] ∨ (s.line k).pauseTimer ≠ none) (fuel : Nat) :
    pollSearch k fuel s = s := by
  cases fuel with
  | zero => rfl
  | succ fuel =>
    unfold pollSearch
    dsimp only
    rw [if_pos]
    rcases rests with none | paused
    · simp [none]
    · simp [Option.isSome_iff_ne_none.mpr paused]

/-- A search of a line that may poll polls the next eligible entry, or ends a pass and goes on (R116). -/
theorem pollSearch_step (list : (s.line k).pollList ≠ []) (awake : (s.line k).pauseTimer = none) :
    pollSearch k (fuel + 1) s =
      (s.line k).nextPoll.elim (pollSearch k fuel (s.modLine k LineRec.passEnded)) (sendPoll k · s) := by
  have goes : ¬ ((s.line k).pollList.isEmpty || (s.line k).pauseTimer.isSome) = true := by
    simp [List.isEmpty_iff, list, awake]
  have unfolded (a b : State) (c : Bool) (cs : c = false) (x : Option Nat) (f : Nat → State) :
      (if c = true then a else match x with | some n => f n | none => b) = x.elim b f := by
    rw [cs]
    cases x <;> rfl
  exact unfolded _ _ _ (Bool.eq_false_iff.mpr goes) _ _

theorem pollSearch_found (list : (s.line k).pollList[n]? = some e) (awake : (s.line k).pauseTimer = none)
    (next : (s.line k).nextPoll = some n) : pollSearch k (fuel + 1) s =
      s.setLine k (LineRec.sending { s.line k with pollPos := n + 1, burst := 0 }
        (.poll (pollFrame s.route.relayAddr e.node))) := by
  have nonempty : (s.line k).pollList ≠ [] := fun none => by simp [none] at list
  rw [pollSearch_step nonempty awake, next, Option.elim_some, sendPoll, LineRec.nodeAt_of_entry list]
  exact State.modLine_sending _ _ _ _

theorem pollSearch_passes (list : (s.line k).pollList ≠ []) (awake : (s.line k).pauseTimer = none)
    (next : (s.line k).nextPoll = none) :
    pollSearch k (fuel + 1) s = pollSearch k fuel (s.setLine k (s.line k).passEnded) := by
  rw [pollSearch_step list awake, next]
  rfl

/-- The line after `q` passes without a poll pause (R116). -/
def LineRec.passed (l : LineRec) (q : Nat) : LineRec :=
  { l with cycle := l.cycle + BitVec.ofNat 4 q, pollPos := 0, burst := 0 }

theorem LineRec.passEnded_eq_passed (pause : l.config.pollPause = 0) : l.passEnded = l.passed 1 := by
  simp [LineRec.passEnded, LineRec.passed, pause]

theorem LineRec.passEnded_passed (pause : l.config.pollPause = 0) (q : Nat) :
    (l.passed q).passEnded = l.passed (q + 1) := by
  have cycle : l.cycle + BitVec.ofNat 4 q + 1#4 = l.cycle + BitVec.ofNat 4 (q + 1) := by
    rw [BitVec.add_assoc]
    congr 1
    apply BitVec.eq_of_toNat_eq
    simp
  simp [LineRec.passEnded, LineRec.passed, pause, cycle]

/-- Passes that find no eligible entry follow each other within the turn (R116). -/
theorem pollSearch_passed (list : (s.line k).pollList ≠ []) (awake : (s.line k).pauseTimer = none)
    (pause : (s.line k).config.pollPause = 0) (first : (s.line k).nextPoll = none) (fuel : Nat) (m : Nat)
    (passes : ∀ q, 1 ≤ q → q ≤ m → ((s.line k).passed q).nextPoll = none) :
    pollSearch k (fuel + 1 + m) s = pollSearch k fuel (s.setLine k ((s.line k).passed (m + 1))) := by
  induction m generalizing fuel with
  | zero => rw [Nat.add_zero, pollSearch_passes list awake first, LineRec.passEnded_eq_passed pause]
  | succ m ih =>
    have line : (s.setLine k ((s.line k).passed (m + 1))).line k = (s.line k).passed (m + 1) :=
      State.line_setLine_same _ _ _
    rw [show fuel + 1 + (m + 1) = fuel + 1 + 1 + m by omega,
      ih (fuel + 1) fun q least most => passes q least (Nat.le_succ_of_le most),
      pollSearch_passes (by rw [line]; exact list) (by rw [line]; exact awake)
        (by rw [line]; exact passes (m + 1) (by omega) (Nat.le_refl _)),
      line, LineRec.passEnded_passed pause, State.setLine_setLine]

/-! ## The normal queue -/

theorem serveNormal_empty (queue : (s.line k).normalQ = []) (fuel : Nat) : serveNormal k fuel s = (s, false) := by
  cases fuel with
  | zero => rfl
  | succ fuel => rw [serveNormal, queue]

theorem destAbsent_eq_true (found : findEntry (s.frame i).dest (s.line k).pollList = some e)
    (absent : e.presence = .absent) : destAbsent k i s = true := by
  unfold destAbsent
  rw [found]
  exact e.isAbsent_iff.mpr absent

theorem destAbsent_eq_false
    (present : ∀ e, findEntry (s.frame i).dest (s.line k).pollList = some e → e.presence ≠ .absent) :
    destAbsent k i s = false := by
  unfold destAbsent
  split
  · next e found => rw [Bool.eq_false_iff, ne_eq, PollEntry.isAbsent_iff]; exact present e found
  · rfl

/-- A head whose node is in no entry or not ABSENT is sent, with the burst count stepped (R114). -/
theorem serveNormal_sends (queue : (s.line k).normalQ = i :: is)
    (present : ∀ e, findEntry (s.frame i).dest (s.line k).pollList = some e → e.presence ≠ .absent) :
    serveNormal k (fuel + 1) s =
      (s.setLine k (LineRec.sending
        { s.line k with
          normalQ := is
          burst := if (s.line k).pollList = [] then (s.line k).burst else (s.line k).burst + 1 } (.normal i)),
        true) := by
  have served : serveNormal k (fuel + 1) s = (sendNormal k i (s.modLine k fun l =>
      { l with burst := if l.pollList.isEmpty then l.burst else l.burst + 1 }), true) := by
    rw [serveNormal, queue]
    dsimp only
    rw [destAbsent_eq_false present]
    rfl
  rw [served, sendNormal, State.modLine_sending, State.line_modLine_same, State.modLine_def, State.setLine_setLine, queue]
  simp only [List.isEmpty_iff, List.tail_cons]

/-- What the removal of a head for an ABSENT node leaves (R115). -/
def State.headRemoved (s : State) (k : Line) (i : SlotIx) (is : List SlotIx) : State :=
  if (s.frame i).kind = .data ∧ (s.frame i).confirm = true then
    returnFrame .absent i (s.setLine k { s.line k with normalQ := is })
  else countLine k .qRefused (releaseRef i (s.setLine k { s.line k with normalQ := is }))

theorem removeAbsentHead_eq (queue : (s.line k).normalQ = i :: is) :
    removeAbsentHead k i s = s.headRemoved k i is := by
  unfold removeAbsentHead State.headRemoved
  rw [State.modLine_def, queue]
  simp only [← Frame.confirmedData_iff]
  rfl

theorem serveNormal_removes (queue : (s.line k).normalQ = i :: is)
    (found : findEntry (s.frame i).dest (s.line k).pollList = some e) (absent : e.presence = .absent) :
    serveNormal k (fuel + 1) s = serveNormal k fuel (s.headRemoved k i is) := by
  rw [serveNormal, queue]
  dsimp only
  rw [destAbsent_eq_true found absent, ← removeAbsentHead_eq queue]
  rfl

/-! ## The turn -/

theorem LineRec.takesTurn_of (active : l.state = .active) (mode : l.config.mode = .polled) (tp : l.tp = none)
    (phase : l.rx.phase = .hunt) (window : l.window = .closed) (past : l.turnaround = none) : l.takesTurn = true := by
  simp [LineRec.takesTurn, LineRec.pastTurnaround, active, mode, tp, phase, window, past]

theorem takeTurn_first (first : firstSources k s = some u) : takeTurn k s = u := by
  unfold takeTurn
  rw [first]

theorem LineRec.burstAllows_iff (l : LineRec) :
    l.burstAllows = true ↔ l.pollList = [] ∨ l.burst < l.config.burstLimit := by
  simp [LineRec.burstAllows]

/-- Where the await record and the burst limit allow it, the normal queue comes before the polls (R113, R114). -/
theorem takeTurn_serves (first : firstSources k s = none) (await : (s.line k).await = .empty)
    (allows : (s.line k).pollList = [] ∨ (s.line k).burst < (s.line k).config.burstLimit) : takeTurn k s =
      if (serveNormal k (2 * (s.line k).normalQ.length + 1) s).2 = true then
        (serveNormal k (2 * (s.line k).normalQ.length + 1) s).1
      else pollSearch k 18 (serveNormal k (2 * (s.line k).normalQ.length + 1) s).1 := by
  unfold takeTurn
  rw [first]
  dsimp only
  rw [if_pos ⟨await, (LineRec.burstAllows_iff _).mpr allows⟩]
  rfl

/-- The line sends nothing of its normal queue: it awaits, has nothing, or the burst limit holds it back. -/
def LineRec.NoNormal (l : LineRec) : Prop :=
  l.await ≠ .empty ∨ l.normalQ = [] ∨ (l.pollList ≠ [] ∧ l.config.burstLimit ≤ l.burst)

theorem takeTurn_searches (first : firstSources k s = none) (none : (s.line k).NoNormal) :
    takeTurn k s = pollSearch k 18 s := by
  by_cases serves : (s.line k).await = .empty ∧ ((s.line k).pollList = [] ∨ (s.line k).burst < (s.line k).config.burstLimit)
  · obtain ⟨await, allows⟩ := serves
    rcases none with occupied | queue | ⟨list, limit⟩
    · exact absurd await occupied
    · rw [takeTurn_serves first await allows, serveNormal_empty queue]
      rfl
    · rcases allows with empty | below
      · exact absurd empty list
      · omega
  · unfold takeTurn
    rw [first]
    dsimp only
    rw [if_neg fun h => serves ⟨h.1, (LineRec.burstAllows_iff _).mp h.2⟩]

theorem findEntry_mem {node : Addr} {es : List PollEntry} (found : findEntry node es = some e) :
    e ∈ es ∧ e.node = node :=
  ⟨List.mem_of_find?_eq_some found, by simpa using List.find?_some found⟩

/-- Settles O41: the turn's sources in R113's order, and the two loops of R115 and R116 a step at a time. -/
theorem polledLineTakesTurnsInOrder : Obligations.PolledLineTakesTurnsInOrder := by
  refine ⟨?turn, fun s k fuel => ⟨fun queue => serveNormal_empty queue fuel, fun i is queue present =>
      serveNormal_sends queue present⟩,
    fun s k i is e fuel queue found absent => ⟨serveNormal_removes queue found absent,
      congrArg EngineView.burst (removeAbsentHead_engine k k i s),
      (removeAbsentHead_steady k i s).counter k _ (by decide)⟩⟩
  intro s k up active mode tp phase window past answers l noFirst
  have answer {u : State} (e : takeTurn k s = u) : answers u :=
    answers_of (exec_polledTurn s k) up (LineRec.takesTurn_of active mode tp phase window past) e
  have first (nothing : noFirst) : firstSources k s = none := by
    obtain ⟨owed, urgent, due⟩ := nothing
    exact firstSources_nothing owed urgent due
  have search (none : noFirst) (normal : (s.line k).NoNormal) : takeTurn k s = pollSearch k 18 s :=
    takeTurn_searches (first none) normal
  refine ⟨fun e es owed => answer (takeTurn_first (firstSources_conf owed)),
    fun i is owed urgent => answer (takeTurn_first (firstSources_urgent owed urgent)),
    fun i owed urgent due => answer (takeTurn_first (firstSources_due owed urgent due)), ?normal, ?poll, ?pause,
    ?passes, fun none normal rests => answer ((search none normal).trans (pollSearch_rests rests 18)),
    fun none normal => answer (search none normal), ?absent, answer rfl⟩
  case normal =>
    intro i is none await queue allows present
    refine answer ?_
    rw [takeTurn_serves (first none) await allows, serveNormal_sends queue fun e found =>
      present e (findEntry_mem found).1 (findEntry_mem found).2]
    rfl
  case poll =>
    intro n e none normal awake after entry eligible before
    refine answer ((search none normal).trans (pollSearch_found entry awake ?_))
    exact LineRec.nextPoll_of_eligible after entry ((PollEntry.eligible_iff _ _ _).mpr eligible)
      fun m d least lower other => PollEntry.eligible_eq_false (before m d least lower other)
  case pause =>
    intro none normal awake list pause ineligible
    have next : (s.line k).nextPoll = .none :=
      LineRec.nextPoll_of_none fun m d least entry => PollEntry.eligible_eq_false (ineligible m d least entry)
    have ended : (s.line k).passEnded =
        { l with cycle := l.cycle + 1#4, pollPos := 0, burst := 0, pauseTimer := some l.config.pollPause } := by
      unfold LineRec.passEnded
      rw [if_pos pause]
    refine answer ((search none normal).trans ?_)
    rw [pollSearch_passes list awake next, ended]
    exact pollSearch_rests (.inr (by rw [State.line_setLine_same]; exact Option.some_ne_none _)) _
  case passes =>
    intro m n e none normal awake pause least most first' between entry eligible before
    have list : (s.line k).pollList ≠ [] := fun empty => by simp [l, empty] at entry
    have next : (s.line k).nextPoll = .none :=
      LineRec.nextPoll_of_none fun x d after found => PollEntry.eligible_eq_false (first' x d after found)
    have line : (s.setLine k ((s.line k).passed m)).line k = (s.line k).passed m := State.line_setLine_same _ _ _
    refine answer ((search none normal).trans ?_)
    calc pollSearch k 18 s
        = pollSearch k (17 - m + 1 + 1 + (m - 1)) s := by congr 1; omega
      _ = pollSearch k (17 - m + 1) (s.setLine k ((s.line k).passed (m - 1 + 1))) :=
          pollSearch_passed list awake pause next _ _ fun q one upper => LineRec.nextPoll_of_none
            fun x d _ found => PollEntry.eligible_eq_false
              (between q one (by omega) d (List.mem_of_getElem? found))
      _ = pollSearch k (17 - m + 1) (s.setLine k ((s.line k).passed m)) := by rw [Nat.sub_add_cancel least]
      _ = _ := by
          rw [pollSearch_found (n := n) (e := e) (by rw [line]; exact entry) (by rw [line]; exact awake), line,
            State.setLine_setLine]
          · rfl
          · rw [line]
            exact LineRec.nextPoll_of_eligible (Nat.zero_le _) entry ((PollEntry.eligible_iff _ _ _).mpr eligible)
              fun x d _ lower found => PollEntry.eligible_eq_false (before x d lower found)
  case absent =>
    intro i is e none await allows queue found absent u removed r
    refine answer ?_
    have fuel : 2 * (s.line k).normalQ.length + 1 = 2 * is.length + 2 + 1 := by
      rw [show (s.line k).normalQ = i :: is from queue, List.length_cons]
      omega
    rw [takeTurn_serves (first none) await allows, fuel, serveNormal_removes queue found absent]
    rfl

end Sys2Proof.Machine
end

section
/-! PROOFS. The NOTICE an emission builds and what becomes of it, the RETURNs, and the frames of a flush. -/

namespace Sys2Proof.Machine

variable {s t u : State} {i m : SlotIx} {j k : Line} {d : Addr}

/-! ## Where a NOTICE goes -/

/-- A relay-originated frame that a line is decided for (R69). -/
theorem routeNotice_forward (decided : decideRelay s.route (s.frame i).dest = .forward j d) : routeNotice i s =
    if (s.line j).state = .active ∧ (s.line j).urgentQ.length < 4 then
      (s.modFrame i fun f => { f with dest := d }).setLine j
        { s.line j with urgentQ := (s.line j).urgentQ ++ [i] }
    else dropRef i (s.modFrame i fun f => { f with dest := d }) := by
  unfold routeNotice
  rw [decided]
  dsimp only
  unfold offerUrgent
  dsimp only
  rw [State.modFrame_line]
  by_cases room : (s.line j).state = .active ∧ (s.line j).urgentQ.length < 4
  · rw [if_pos room, if_pos room]
    rfl
  · rw [if_neg room, if_neg room]
    rfl

theorem routeNotice_discard (decided : decideRelay s.route (s.frame i).dest = .discard) :
    routeNotice i s = dropRef i (countRelayInEmission .discarded s) := by
  unfold routeNotice
  rw [decided]

theorem routeNotice_unrouted (decided : decideRelay s.route (s.frame i).dest = .unrouted) :
    routeNotice i s = dropRef i (countRelayInEmission .unrouted s) := by
  unfold routeNotice
  rw [decided]

theorem dropRef_route (i : SlotIx) (s : State) : (dropRef i s).route = s.route := by
  unfold dropRef
  dsimp only
  split <;> rfl

theorem countRelayInEmission_route (c : RelayCounter) (s : State) :
    (countRelayInEmission c s).route = (s.bumpRelay c).route := by
  unfold countRelayInEmission
  dsimp only
  split <;> rfl

theorem countRelayInEmission_slots (c : RelayCounter) (s : State) : (countRelayInEmission c s).slots = s.slots := by
  unfold countRelayInEmission
  dsimp only
  split <;> rfl

theorem countRelayInEmission_lines (c : RelayCounter) (s : State) : (countRelayInEmission c s).lines = s.lines := by
  unfold countRelayInEmission
  dsimp only
  split <;> rfl

theorem State.slot_of_slots (e : t.slots = s.slots) (m : SlotIx) : t.slot m = s.slot m := by
  unfold State.slot
  rw [e]

/-- Routing a NOTICE leaves the notice unit as it is but for the record of COUNTER-FULL. -/
theorem routeNotice_notice (i : SlotIx) (s : State) :
    ∃ records, (routeNotice i s).notice = { s.notice with records := records } := by
  have counted (c : RelayCounter) : ∃ records, (countRelayInEmission c s).notice = { s.notice with records := records } := by
    unfold countRelayInEmission
    dsimp only
    split
    · exact ⟨_, rfl⟩
    · exact ⟨s.notice.records, rfl⟩
  unfold routeNotice
  split
  · dsimp only
    split
    · exact ⟨s.notice.records, by rw [offerUrgent_notice]; rfl⟩
    · exact ⟨s.notice.records, by rw [dropRef_notice, offerUrgent_notice]; rfl⟩
  · rw [dropRef_notice]; exact counted _
  · rw [dropRef_notice]; exact counted _

theorem routeNotice_slot_ne (ne : m ≠ i) : (routeNotice i s).slot m = s.slot m := by
  have counted (c : RelayCounter) : (dropRef i (countRelayInEmission c s)).slot m = s.slot m := by
    rw [dropRef_slot_ne ne, State.slot_of_slots (countRelayInEmission_slots c s)]
  cases decided : decideRelay s.route (s.frame i).dest with
  | forward j d =>
    have rewritten : (s.modFrame i fun f => { f with dest := d }).slot m = s.slot m := State.slot_modSlot_ne _ _ _ _ ne
    rw [routeNotice_forward decided]
    split
    · exact rewritten
    · rw [dropRef_slot_ne ne, rewritten]
  | discard => rw [routeNotice_discard decided, counted]
  | unrouted => rw [routeNotice_unrouted decided, counted]

/-! ## The NOTICE that an emission builds -/

theorem noticeBuilt_slot (rest : List SlotIx) : (s.noticeBuilt i rest).slot i =
    { frame := noticeFrame { s with notice := { s.notice with seq := s.notice.seq + 1#4 } }
      arrival := none, holders := 1, retry := 0 } := State.slot_setSlot_same _ _ _

theorem noticeBuilt_frame (rest : List SlotIx) : (s.noticeBuilt i rest).frame i =
    noticeFrame { s with notice := { s.notice with seq := s.notice.seq + 1#4 } } := congrArg Slot.frame (noticeBuilt_slot rest)

theorem noticeBuilt_slot_ne {rest : List SlotIx} (ne : m ≠ i) : (s.noticeBuilt i rest).slot m = s.slot m :=
  State.slot_setSlot_ne _ _ _ _ ne

theorem emitNotice_slot_ne {rest : List SlotIx} (free : s.pool.free = i :: rest) (ne : m ≠ i) :
    (emitNotice s).slot m = s.slot m := by
  rw [emitNotice_of_free free]
  exact (routeNotice_slot_ne ne).trans (noticeBuilt_slot_ne ne)

/-- A NOTICE's slot that is let go within the emission: no line changes, and the slot joins the tail of the free
list (R43). -/
def NoticeReleased (s : State) (i : SlotIx) (rest : List SlotIx) (t : State) : Prop :=
  t.lines = s.lines ∧ (t.slot i).holders = 0 ∧ t.pool.free = rest ++ [i]

theorem noticeReleased_of_dropped {rest : List SlotIx} (lines : u.lines = s.lines) (holders : (u.slot i).holders = 1)
    (free : u.pool.free = rest) : NoticeReleased s i rest ((dropRef i u).modNotice NoticeUnit.sent) := by
  obtain ⟨joined, zero⟩ := dropRef_last holders
  exact ⟨(dropRef_lines i u).trans lines, zero, joined.trans (congrArg (· ++ [i]) free)⟩

/-- What becomes of the NOTICE, by the route unit's decision on it (R167). -/
theorem emitNotice_outcomes {rest : List SlotIx} (free : s.pool.free = i :: rest) :
    (∀ j d, decideRelay s.route s.notice.address = .forward j d →
      ((s.line j).state = .active → (s.line j).urgentQ.length < 4 →
        (emitNotice s).slot i =
          { frame := { noticeFrame { s with notice := { s.notice with seq := s.notice.seq + 1#4 } } with dest := d }
            arrival := none, holders := 1, retry := 0 } ∧
        (emitNotice s).lines = (s.setLine j { s.line j with urgentQ := (s.line j).urgentQ ++ [i] }).lines ∧
        (emitNotice s).pool.free = rest) ∧
      ((s.line j).state ≠ .active ∨ 4 ≤ (s.line j).urgentQ.length →
        NoticeReleased s i rest (emitNotice s) ∧ (emitNotice s).route = s.route)) ∧
    (decideRelay s.route s.notice.address = .discard → NoticeReleased s i rest (emitNotice s) ∧
      (emitNotice s).route.counter .discarded = satInc (s.route.counter .discarded)) ∧
    (decideRelay s.route s.notice.address = .unrouted → NoticeReleased s i rest (emitNotice s) ∧
      (emitNotice s).route.counter .unrouted = satInc (s.route.counter .unrouted)) := by
  have decides : decideRelay (s.noticeBuilt i rest).route ((s.noticeBuilt i rest).frame i).dest =
      decideRelay s.route s.notice.address := by rw [noticeBuilt_frame]; rfl
  have counted (c : RelayCounter) : NoticeReleased s i rest
      ((dropRef i (countRelayInEmission c (s.noticeBuilt i rest))).modNotice NoticeUnit.sent) ∧
      ((dropRef i (countRelayInEmission c (s.noticeBuilt i rest))).modNotice NoticeUnit.sent).route.counter c =
        satInc (s.route.counter c) := by
    refine ⟨noticeReleased_of_dropped (countRelayInEmission_lines c _) ?_ ?_, ?_⟩
    · rw [State.slot_of_slots (countRelayInEmission_slots c _), noticeBuilt_slot]
    · rw [countRelayInEmission_pool]; rfl
    · rw [State.modNotice_route, dropRef_route, countRelayInEmission_route, counter_bumpRelay, if_pos rfl]
      rfl
  rw [emitNotice_of_free free]
  refine ⟨fun j d decided => ⟨fun active room => ?_, fun refuses => ?_⟩, fun decided => ?_, fun decided => ?_⟩
  · rw [routeNotice_forward (decides.trans decided), if_pos ⟨active, room⟩]
    refine ⟨?_, rfl, rfl⟩
    have rewritten : ((s.noticeBuilt i rest).modFrame i fun f => { f with dest := d }).slot i = _ :=
      State.slot_modSlot_same _ _ _
    rw [noticeBuilt_slot] at rewritten
    exact rewritten
  · have full : ¬ (((s.noticeBuilt i rest).line j).state = .active ∧ ((s.noticeBuilt i rest).line j).urgentQ.length < 4) :=
      fun ⟨active, room⟩ => refuses.elim (fun inactive => inactive active) (Nat.not_le.mpr room)
    rw [routeNotice_forward (decides.trans decided), if_neg full]
    refine ⟨noticeReleased_of_dropped rfl ?_ rfl, ?_⟩
    · rw [State.modFrame, State.slot_modSlot_same, noticeBuilt_slot]
    · rw [State.modNotice_route, dropRef_route]
      rfl
  · rw [routeNotice_discard (decides.trans decided)]
    exact counted .discarded
  · rw [routeNotice_unrouted (decides.trans decided)]
    exact counted .unrouted

/-- The notice unit after an emission (R165, R167, R168). -/
theorem emitNotice_unit (free : s.pool.free ≠ []) :
    (emitNotice s).notice.seq = s.notice.seq + 1#4 ∧ (emitNotice s).notice.state = .outstanding ∧
      (emitNotice s).notice.timer = some s.notice.interval ∧ (emitNotice s).notice.building = none ∧
      (emitNotice s).notice.listed = s.notice.listing := by
  obtain ⟨i, rest, e⟩ := List.exists_cons_of_ne_nil free
  obtain ⟨records, unit⟩ := routeNotice_notice i (s.noticeBuilt i rest)
  rw [emitNotice_of_free e, State.modNotice_notice, unit]
  exact ⟨rfl, rfl, rfl, rfl, rfl⟩

theorem NoticeUnit.emits_of {n : NoticeUnit} (idle : n.state = .idle) (address : n.address ≠ 0#16)
    (pending : ∃ q : NoticeKind, (n.records.get q.code).pending = true ∧ n.mask.getLsbD q.code.val = false) :
    n.emits = true := by
  obtain ⟨q, pending, unmasked⟩ := pending
  exact n.emits_iff.mpr ⟨idle, address, q, by
    rw [NoticeUnit.reports, pending, unmasked]; rfl⟩

theorem length_entryBytes (r : NoticeRecord) (q : NoticeKind) : (r.entryBytes q).length = 5 := by
  unfold NoticeRecord.entryBytes valueOrNone
  split <;> rfl

theorem length_noticePayload (n : NoticeUnit) : n.payload.length = 1 + 5 * n.reported.length := by
  unfold NoticeUnit.payload
  rw [List.length_cons, Nat.add_comm]
  congr 1
  induction n.reported with
  | nil => rfl
  | cons q qs ih => rw [List.flatMap_cons, List.length_append, length_entryBytes, ih, List.length_cons]; omega

theorem noticeFrame_eq (s : State) : noticeFrame s =
    { dest := s.notice.address, src := s.route.relayAddr, kind := .notice, confirm := false
      seq := s.notice.seq, len := 1 + 5 * s.notice.reported.length
      payload := numByte s.notice.reported.length :: s.notice.reported.flatMap (fun q =>
        let r := s.notice.records.get q.code
        [numByte q.code.val, r.count, lineOrNone r.line] ++ valueOrNone r.value) } := by
  unfold noticeFrame
  rw [length_noticePayload]
  rfl

/-- Settles O35, by the emission's two steps: the build, and the route unit's decision. -/
theorem noticeListsPendingKinds : Obligations.NoticeListsPendingKinds := by
  refine ⟨⟨fun s free => ?unit, noticeFrame_eq, fun s i rest free =>
    ⟨fun n ne => emitNotice_slot_ne free ne, emitNotice_outcomes free⟩⟩,
    fun s up timer => ?interval, fun s up waiting free => ?served, fun s idle address pending waiting => ?test⟩
  case unit =>
    obtain ⟨seq, state, timer, building, listed⟩ := emitNotice_unit free
    exact ⟨seq, state, timer, building, emitNotice_noticeWaiting free, listed,
      fun q other => emitNotice_record other s⟩
  case interval =>
    exact answers_of (exec_noticeIntervalExpiry s) up (Option.isSome_iff_ne_none.mpr timer) rfl
  case served =>
    refine answers_of (exec_noticeSlotServed s) up ?_ (if_pos ⟨waiting, free⟩)
    simp [waiting, free]
  case test =>
    unfold emissionTest
    rw [if_pos (NoticeUnit.emits_of idle address pending), waiting]
    rfl

/-! ## RETURNs -/

theorem decideRelay_unrouted (none : lookup s.route.active d = none) (action : s.route.defaultAction = .discard) :
    decideRelay s.route d = .unrouted := by
  unfold decideRelay
  rw [none]
  dsimp only
  rw [action]

theorem routeReturn_unrouted (decided : decideRelay s.route (s.frame i).dest = .unrouted) : routeReturn i s =
    dropRef i (noteEvent .unrouted none (some (s.frame i).dest) (countRelay .unrouted s)) := by
  unfold routeReturn
  rw [decided]

theorem routeReturn_discard (decided : decideRelay s.route (s.frame i).dest = .discard) :
    routeReturn i s = dropRef i (countRelay .discarded s) := by
  unfold routeReturn
  rw [decided]

theorem routeReturn_forward (decided : decideRelay s.route (s.frame i).dest = .forward j d) : routeReturn i s =
    if (s.line j).state = .active ∧ (s.line j).normalQ.length < (s.line j).config.quota then
      (s.modFrame i fun f => { f with dest := d }).setLine j
        { s.line j with normalQ := (s.line j).normalQ ++ [i] }
    else dropRef i (countLine j .qRefused (s.modFrame i fun f => { f with dest := d })) := by
  unfold routeReturn
  rw [decided]
  dsimp only
  unfold admitNormal
  simp only [State.modFrame_line, LineRec.admits_iff]
  split <;> rfl

/-- A NOTICE without a route is released with no event (R69). -/
theorem routeNotice_released (decided : decideRelay s.route (s.frame i).dest = .unrouted) :
    (routeNotice i s).route.counter .unrouted = satInc (s.route.counter .unrouted) ∧
      (routeNotice i s).notice.records.get NoticeKind.unrouted.code =
        s.notice.records.get NoticeKind.unrouted.code ∧
      ((s.slot i).holders = 1 → (routeNotice i s).pool.free = s.pool.free ++ [i]) := by
  rw [routeNotice_unrouted decided]
  refine ⟨?_, ?_, fun alone => ?_⟩
  · rw [dropRef_route, countRelayInEmission_route, counter_bumpRelay, if_pos rfl]
  · rw [dropRef_notice]
    exact countRelayInEmission_record (by decide) _ _
  · rw [(dropRef_last (by rw [State.slot_of_slots (countRelayInEmission_slots _ _)]; exact alone)).1,
      countRelayInEmission_pool]

theorem makeReturn_slot (r : Reason) (i : SlotIx) (s : State) : (makeReturn r i s).slot i =
    { s.slot i with frame := (s.frame i).toReturn r s.route.relayAddr, arrival := none, retry := 0 } :=
  State.slot_modSlot_same _ _ _

theorem makeReturn_slot_ne {r : Reason} (ne : m ≠ i) : (makeReturn r i s).slot m = s.slot m :=
  State.slot_modSlot_ne _ _ _ _ ne

theorem controlByte_confirmed (q : BitVec 4) : controlByte .data true q = 0x10#8 + q.setWidth 8 := by
  revert q; decide

/-! ## The frames of a flush -/

/-- State `u` is `s` after a part of a flush that has made RETURNs of the slots `returns` and dropped one reference
for each member of `dropped`, so that the slots `released` are free (R86). -/
structure Flushed (s u : State) (returns dropped released : List SlotIx) : Prop where
  lines : u.lines = s.lines
  route : u.route = s.route
  notice : u.notice = s.notice
  returned : ∀ i ∈ returns, u.slot i =
    { (makeReturn .lineDown i s).slot i with holders := (s.slot i).holders - dropped.count i }
  kept : ∀ i, i ∉ returns → u.slot i = { s.slot i with holders := (s.slot i).holders - dropped.count i }
  pool : u.pool = { s.pool with free := s.pool.free ++ released }
  sub : released.Sublist dropped
  once : ∀ i, released.count i =
    if 1 ≤ (s.slot i).holders ∧ (s.slot i).holders ≤ dropped.count i then 1 else 0

namespace Flushed
variable {returns dropped released : List SlotIx}

theorem refl (s : State) : Flushed s s [] [] [] where
  lines := rfl
  route := rfl
  notice := rfl
  returned := nofun
  kept _ _ := rfl
  pool := by rw [List.append_nil]
  sub := List.Sublist.refl _
  once i := by
    rw [if_neg fun h => by have := h.1; have := h.2; simp at this; omega]
    rfl

theorem holders (h : Flushed s u returns dropped released) (i : SlotIx) :
    (u.slot i).holders = (s.slot i).holders - dropped.count i := by
  by_cases member : i ∈ returns
  · rw [h.returned i member]
  · rw [h.kept i member]

theorem frame (h : Flushed s u returns dropped released) (new : i ∉ returns) : u.frame i = s.frame i := by
  rw [State.frame, h.kept i new]
  rfl

/-- A further RETURN is made of a frame that no RETURN has been made of. -/
theorem makeReturn (h : Flushed s u returns dropped released) (new : i ∉ returns) :
    Flushed s (Machine.makeReturn .lineDown i u) (returns ++ [i]) dropped released where
  lines := h.lines
  route := h.route
  notice := h.notice
  returned m member := by
    obtain rfl | ne := eq_or_ne m i
    · rw [makeReturn_slot, makeReturn_slot, h.frame new, h.route, h.kept m new]
    · rw [makeReturn_slot_ne ne]
      exact h.returned m ((List.mem_append.mp member).resolve_right fun same => ne (List.mem_singleton.mp same))
  kept m other := by
    rw [List.mem_append, List.mem_singleton, not_or] at other
    rw [makeReturn_slot_ne other.2]
    exact h.kept m other.1
  pool := h.pool
  sub := h.sub
  once := h.once

/-- A flushed reference is dropped, and the agent may learn that its reply is gone. -/
theorem flushDrop_eq (i : SlotIx) (u : State) : ∃ g, flushDrop u i = (dropRef i u).modAgent g := by
  have aside (g : Agent → Agent) : dropRef i (u.modAgent g) = (dropRef i u).modAgent g := by
    unfold dropRef
    dsimp only
    rw [State.modAgent_slot]
    split <;> rfl
  unfold flushDrop noteReplyGone
  split
  · exact ⟨_, aside _⟩
  · exact ⟨id, rfl⟩

/-- The slot after a drop, and the free list it joins with its last holder (R43). -/
theorem dropRef_eq (i : SlotIx) (u : State) :
    (∀ m, (dropRef i u).slot m = { u.slot m with holders := (u.slot m).holders - if m = i then 1 else 0 }) ∧
      (dropRef i u).pool = { u.pool with free := u.pool.free ++ if (u.slot i).holders = 1 then [i] else [] } := by
  constructor
  · intro m
    obtain rfl | ne := eq_or_ne m i
    · rw [if_pos rfl]
      unfold dropRef
      dsimp only
      split
      · rw [State.modPool_slot, State.slot_modSlot_same]
      · rw [State.slot_modSlot_same]
    · rw [dropRef_slot_ne ne, if_neg ne, Nat.sub_zero]
  · unfold dropRef
    dsimp only
    split
    · rfl
    · rw [List.append_nil]
      rfl

/-- One more reference is dropped, the slot joining the free list with its last (R86). -/
theorem drop (h : Flushed s u returns dropped released) (i : SlotIx) :
    ∃ released', Flushed s (flushDrop u i) returns (dropped ++ [i]) released' := by
  obtain ⟨g, gone⟩ := flushDrop_eq i u
  obtain ⟨slot, freed⟩ := dropRef_eq i u
  have count (m : SlotIx) : (dropped ++ [i]).count m = dropped.count m + if m = i then 1 else 0 := by
    rw [List.count_append, List.count_singleton]
    by_cases same : m = i
    · simp [same]
    · simp [same, Ne.symm same]
  refine ⟨released ++ if (u.slot i).holders = 1 then [i] else [], ?_⟩
  exact
    { lines := (flushDrop_lines i u).trans h.lines
      route := by rw [gone, State.modAgent_route, dropRef_route, h.route]
      notice := by rw [gone, State.modAgent_notice, dropRef_notice, h.notice]
      returned := fun m member => by rw [gone, State.modAgent_slot, slot, h.returned m member, count, Nat.sub_sub]
      kept := fun m other => by rw [gone, State.modAgent_slot, slot, h.kept m other, count, Nat.sub_sub]
      pool := by rw [gone, State.modAgent_pool, freed, h.pool, List.append_assoc]
      sub := by
        refine h.sub.append ?_
        split
        · exact List.Sublist.refl _
        · exact List.nil_sublist _
      once := fun m => by
        have before := h.once m
        have holders := h.holders i
        rw [List.count_append, before, count]
        obtain rfl | ne := eq_or_ne m i
        · rw [if_pos rfl]
          by_cases last : (u.slot m).holders = 1
          · rw [if_pos last, if_neg (by omega), if_pos (by omega), List.count_singleton_self]
          · rw [if_neg last, List.count_nil]
            by_cases gone : 1 ≤ (s.slot m).holders ∧ (s.slot m).holders ≤ dropped.count m
            · rw [if_pos gone, if_pos (by omega)]
            · rw [if_neg gone, if_neg (by omega)]
        · rw [if_neg ne, Nat.add_zero]
          have none : (if (u.slot i).holders = 1 then [i] else []).count m = 0 := by
            split
            · exact List.count_eq_zero.mpr fun member => ne (List.mem_singleton.mp member)
            · rfl
          rw [none, Nat.add_zero] }

theorem drops (h : Flushed s u returns dropped released) (q : List SlotIx) :
    ∃ released', Flushed s (q.foldl flushDrop u) returns (dropped ++ q) released' := by
  induction q generalizing u dropped released with
  | nil => exact ⟨released, by rw [List.append_nil]; exact h⟩
  | cons i q ih =>
    obtain ⟨r, next⟩ := h.drop i
    obtain ⟨r', last⟩ := ih next
    exact ⟨r', by rw [List.append_cons]; exact last⟩

/-- A reference that the transmit position or the normal queue held becomes a RETURN or is dropped (R86). -/
theorem flushRef (h : Flushed s u returns dropped released) (new : i ∉ returns) :
    ∃ u' released', Machine.flushRef (u, returns) i = (u', returns ++ [i].filter fun i => (s.frame i).confirmedData) ∧
      Flushed s u' (returns ++ [i].filter fun i => (s.frame i).confirmedData)
        (dropped ++ [i].filter fun i => !(s.frame i).confirmedData) released' := by
  have frame := h.frame new
  unfold Machine.flushRef
  dsimp only
  rw [frame]
  cases e : (s.frame i).confirmedData with
  | true =>
    refine ⟨_, released, by rw [if_pos rfl]; simp only [e, List.filter_cons_of_pos, List.filter_nil]; rfl, ?_⟩
    simp only [e, List.filter_cons_of_pos, List.filter_nil, Bool.not_true, Bool.false_eq_true, not_false_eq_true,
      List.filter_cons_of_neg, List.append_nil]
    exact h.makeReturn new
  | false =>
    obtain ⟨r, next⟩ := h.drop i
    refine ⟨flushDrop u i, r, by simp [e], ?_⟩
    simp only [e, Bool.not_false, List.filter_cons_of_pos, List.filter_nil, Bool.false_eq_true, not_false_eq_true,
      List.filter_cons_of_neg, List.append_nil]
    exact next

theorem flushRefs (h : Flushed s u returns dropped released) (q : List SlotIx) (once : (returns ++ q).Nodup) :
    ∃ u' released', q.foldl Machine.flushRef (u, returns) =
        (u', returns ++ q.filter fun i => (s.frame i).confirmedData) ∧
      Flushed s u' (returns ++ q.filter fun i => (s.frame i).confirmedData)
        (dropped ++ q.filter fun i => !(s.frame i).confirmedData) released' := by
  induction q generalizing u returns dropped released with
  | nil => exact ⟨u, released, by simp, by simpa using h⟩
  | cons i q ih =>
    have new : i ∉ returns := fun member => (List.disjoint_of_nodup_append once) member List.mem_cons_self
    obtain ⟨u', r, step, next⟩ := h.flushRef new
    have once' : ((returns ++ [i].filter fun i => (s.frame i).confirmedData) ++ q).Nodup := by
      refine once.sublist ?_
      rw [List.append_cons]
      exact ((List.Sublist.refl _).append List.filter_sublist).append (List.Sublist.refl _)
    obtain ⟨u'', r', steps, last⟩ := ih next once'
    refine ⟨u'', r', ?_, ?_⟩
    · rw [List.foldl_cons, step, steps, List.append_assoc, ← List.filter_append]
      rfl
    · rw [List.append_assoc, List.append_assoc, ← List.filter_append, ← List.filter_append] at last
      exact last

end Flushed

/-- The slot of a normal frame at the transmit position. -/
def TxItem.normalSlots : Option TxItem → List SlotIx
  | some (.normal i) => [i]
  | _ => []

/-- The slot of another frame that the transmit position holds a reference of. -/
def TxItem.otherSlots : Option TxItem → List SlotIx
  | some (.urgent i) => [i]
  | some (.resend i) => [i]
  | _ => []

/-- The transmit position's part of a flush (R86). -/
theorem flushTp_flushed (tp : Option TxItem) (s : State) : ∃ u released,
    flushTp tp s = (u, (TxItem.normalSlots tp).filter fun i => (s.frame i).confirmedData) ∧
      Flushed s u ((TxItem.normalSlots tp).filter fun i => (s.frame i).confirmedData)
        (TxItem.otherSlots tp ++ (TxItem.normalSlots tp).filter fun i => !(s.frame i).confirmedData) released := by
  have start := Flushed.refl s
  match tp with
  | none => exact ⟨s, [], rfl, start⟩
  | some (.conf f) => exact ⟨s, [], rfl, start⟩
  | some (.poll f) => exact ⟨s, [], rfl, start⟩
  | some (.urgent i) =>
    obtain ⟨r, next⟩ := start.drop i
    exact ⟨_, r, rfl, next⟩
  | some (.resend i) =>
    obtain ⟨r, next⟩ := start.drop i
    exact ⟨_, r, rfl, next⟩
  | some (.normal i) =>
    obtain ⟨u, r, step, next⟩ := start.flushRef (i := i) List.not_mem_nil
    exact ⟨u, r, step, next⟩

/-- The slot of the await record's frame. -/
def Await.slots (a : Await) : List SlotIx :=
  match a with
  | .empty => []
  | .waiting i => [i]
  | .due i => [i]
  | .resending i => [i]

/-- The await record's part of a flush (R86). -/
theorem flushAwait_flushed {returns dropped released : List SlotIx} (h : Flushed s u returns dropped released)
    (a : Await) (new : ∀ i ∈ a.slots, i ∉ returns) : ∃ u', flushAwait a (u, returns) = (u', returns ++ a.slots) ∧
      Flushed s u' (returns ++ a.slots) dropped released := by
  match a, new with
  | .empty, _ => exact ⟨u, by simp [flushAwait, Await.slot?, Await.slots], by simpa [Await.slots] using h⟩
  | .waiting i, new => exact ⟨_, rfl, h.makeReturn (new i (List.mem_singleton_self i))⟩
  | .due i, new => exact ⟨_, rfl, h.makeReturn (new i (List.mem_singleton_self i))⟩
  | .resending i, new => exact ⟨_, rfl, h.makeReturn (new i (List.mem_singleton_self i))⟩

/-- The frames of a flush: the RETURNs in their order, and the references dropped (R86). -/
theorem flushFrames_flushed (l : LineRec) (s : State)
    (once : (TxItem.normalSlots l.tp ++ l.await.slots ++ l.normalQ).Nodup) :
    ∃ u released, flushFrames l s =
        (u, (TxItem.normalSlots l.tp).filter (fun i => (s.frame i).confirmedData) ++ l.await.slots ++
          l.normalQ.filter fun i => (s.frame i).confirmedData) ∧
      Flushed s u
        ((TxItem.normalSlots l.tp).filter (fun i => (s.frame i).confirmedData) ++ l.await.slots ++
          l.normalQ.filter fun i => (s.frame i).confirmedData)
        (TxItem.otherSlots l.tp ++ (TxItem.normalSlots l.tp).filter (fun i => !(s.frame i).confirmedData) ++
          l.normalQ.filter (fun i => !(s.frame i).confirmedData) ++ l.urgentQ) released := by
  have early : ((TxItem.normalSlots l.tp).filter (fun i => (s.frame i).confirmedData) ++ l.await.slots ++ l.normalQ).Nodup :=
    once.sublist ((List.filter_sublist.append (List.Sublist.refl _)).append (List.Sublist.refl _))
  obtain ⟨u₁, r₁, tp, first⟩ := flushTp_flushed l.tp s
  obtain ⟨u₂, await, second⟩ := flushAwait_flushed first l.await fun i member other =>
    List.disjoint_of_nodup_append (List.Nodup.of_append_left early) other member
  obtain ⟨u₃, r₃, queue, third⟩ := second.flushRefs l.normalQ early
  obtain ⟨r₄, last⟩ := third.drops l.urgentQ
  refine ⟨_, r₄, ?_, last⟩
  unfold flushFrames
  dsimp only
  rw [tp, await, queue]

/-- Settles O39: the route unit's decision on RETURNs and NOTICEs, and the flush as a run of RETURNs and drops. -/
theorem relayOriginatedFrames : Obligations.RelayOriginatedFrames := by
  refine ⟨fun s i none action => ?unrouted, fun s i r => ?made, fun s i j d => ⟨?forward, routeReturn_discard⟩,
    fun s l => ?flush, fun s k polled => rfl⟩
  case unrouted =>
    have decided := decideRelay_unrouted none action
    exact ⟨routeReturn_unrouted decided, routeNotice_released decided⟩
  case made =>
    refine ⟨?_, fun j ne => makeReturn_slot_ne ne, rfl, rfl, fun kind confirm => ?_⟩
    · refine (makeReturn_slot r i s).trans ?_
      cases r <;> rfl
    · rw [kind, confirm, controlByte_confirmed]
  case forward => exact fun decided => routeReturn_forward decided
  case flush =>
    intro confirmed first second awaiting returns dropped once
    have tp : first = TxItem.normalSlots l.tp := by cases h : l.tp with
      | none => simp [first, h, TxItem.normalSlots]
      | some x => cases x <;> simp [first, h, TxItem.normalSlots]
    have other : second = TxItem.otherSlots l.tp := by cases h : l.tp with
      | none => simp [second, h, TxItem.otherSlots]
      | some x => cases x <;> simp [second, h, TxItem.otherSlots]
    have await : awaiting = l.await.slots := rfl
    rw [tp, await] at once
    obtain ⟨u, released, frames, flushed⟩ := flushFrames_flushed l s once
    rw [← tp, ← await] at frames
    rw [← tp, ← await, ← other] at flushed
    exact ⟨u, released, frames, flushed.lines, flushed.route, flushed.notice, flushed.returned, flushed.kept,
      flushed.pool, flushed.sub, flushed.once⟩

end Sys2Proof.Machine
end

section
/-! PROOFS. Reply windows that expire, the ends of a line's waits, RXD's levels, and the agent's taking and offering. -/

namespace Sys2Proof.Machine

variable {a s t u : State} {i : SlotIx} {is : List SlotIx} {j k : Line} {node : Addr} {o : Origin}

/-! ## Ports but for the confirm timer and the poll list -/

/-- A port view without confirm timer and poll list. -/
def PortView.masked (p : PortView) : PortView := { p with confirmTimer := none, pollList := [] }

/-- Globals and ports are as they were, but for line `k`'s confirm timer and poll list. -/
structure PortsBut (k : Line) (s t : State) : Prop where
  globals : t.globals = s.globals
  other : ∀ j, j ≠ k → t.port j = s.port j
  own : (t.port k).masked = (s.port k).masked

theorem PortsBut.refl (s : State) : PortsBut k s s := ⟨rfl, fun _ _ => rfl, rfl⟩

theorem PortsBut.trans (h : PortsBut k a s) (g : PortsBut k s t) : PortsBut k a t :=
  ⟨g.globals.trans h.globals, fun j ne => (g.other j ne).trans (h.other j ne), g.own.trans h.own⟩

theorem PortsBut.of_port (h : PortsBut k a s) (globals : t.globals = s.globals) (port : ∀ j, t.port j = s.port j) :
    PortsBut k a t := h.trans ⟨globals, fun j _ => port j, congrArg PortView.masked (port k)⟩

theorem PortsBut.steady (h : PortsBut k a s) (g : Steady s t) : PortsBut k a t := h.of_port g.globals g.port

theorem PortsBut.modLine (h : PortsBut k a s) {f : LineRec → LineRec}
    (own : (f (s.line k)).port.masked = (s.line k).port.masked) : PortsBut k a (s.modLine k f) :=
  h.trans ⟨rfl, fun j ne => State.port_modLine_ne _ _ _ _ ne, by
    rw [State.port, State.line_modLine_same]
    exact own⟩

theorem countLine_globals {c : LineCounter} : (countLine k c s).globals = s.globals :=
  (countLine_steady k c s).globals

theorem PortsBut.countLine (h : PortsBut k a s) {c : LineCounter} : PortsBut k a (countLine k c s) :=
  h.of_port countLine_globals fun _ => countLine_port

theorem PortsBut.noteEvent (h : PortsBut k a s) {q : NoticeKind} {l : Option Line} {v : Option Addr} :
    PortsBut k a (noteEvent q l v s) :=
  have recorded : PortsBut k a (recordEvent q l v s) := h.of_port rfl fun _ => rfl
  recorded.steady (noteEvent_steady q l v s)

theorem PortsBut.returnFrame (h : PortsBut k a s) {r : Reason} : PortsBut k a (returnFrame r i s) :=
  h.steady (returnFrame_steady r i s)

theorem PortsBut.awaitExpiry (h : PortsBut k a s) : PortsBut k a (awaitExpiry k s) := by
  unfold Machine.awaitExpiry
  split
  · next i _ =>
    split
    · have retried : PortsBut k a (s.modSlot i fun x => { x with retry := x.retry + 1 }) :=
        h.of_port rfl fun _ => rfl
      exact (retried.modLine rfl).countLine
    · exact PortsBut.returnFrame (PortsBut.countLine (h.modLine rfl))
  · exact h
  · exact h
  · exact h

theorem PortsBut.returnAbsentAwait (h : PortsBut k a s) : PortsBut k a (returnAbsentAwait k node s) := by
  have cleared : PortsBut k a (clearAwait k s) := h.modLine rfl
  unfold Machine.returnAbsentAwait
  split
  · split
    · exact cleared.returnFrame
    · exact h
  · split
    · exact cleared.returnFrame
    · exact h
  · exact h
  · exact h

theorem PortsBut.presenceMiss (h : PortsBut k a s) : PortsBut k a (presenceMiss k node s) := by
  have missed (f : PollEntry → PollEntry) : PortsBut k a (s.entryChanged k node f) :=
    h.modLine (k := k) (f := fun l => { l with pollList := updateEntry node f l.pollList }) rfl
  rcases found : findEntry node (s.line k).pollList with _ | e
  · rw [presenceMiss_none found]
    exact h
  · rw [presenceMiss_found found]
    split
    · exact (missed _).noteEvent.returnAbsentAwait
    · exact missed _

/-! ## Counters of a miss -/

theorem counter_returnAbsentAwait {c : LineCounter} (other : c ≠ .qRefused) :
    ((returnAbsentAwait k node s).line j).counter c = (s.line j).counter c := by
  have returned (i : SlotIx) : ((returnFrame .absent i (clearAwait k s)).line j).counter c = (s.line j).counter c := by
    rw [(returnFrame_steady _ _ _).counter j c other]
    exact counter_modLine _ (by exact rfl) j c
  unfold returnAbsentAwait
  split
  · split
    · exact returned _
    · rfl
  · split
    · exact returned _
    · rfl
  · rfl
  · rfl

/-- A miss changes no counter but through Q_REFUSED. -/
theorem counter_presenceMiss {c : LineCounter} (other : c ≠ .qRefused) :
    ((presenceMiss k node s).line j).counter c = (s.line j).counter c := by
  have missed (f : PollEntry → PollEntry) : ((s.entryChanged k node f).line j).counter c = (s.line j).counter c :=
    counter_modLine (k := k) (fun l => { l with pollList := updateEntry node f l.pollList }) rfl j c
  rcases found : findEntry node (s.line k).pollList with _ | e
  · rw [presenceMiss_none found]
  · rw [presenceMiss_found found]
    split
    · rw [counter_returnAbsentAwait other, LineRec.counter, noteEvent_counters]
      exact missed _
    · exact missed _

/-! ## The window's expiry -/

/-- The line whose window has expired, past the turnaround wait's start (R124). -/
def LineRec.windowExpired (l : LineRec) : LineRec :=
  { l with
    window := .closed, windowTimer := none
    turnaround :=
      if l.config.mode = .polled then (if l.config.turnaround = 0 then none else some l.config.turnaround)
      else l.turnaround }

theorem LineRec.startTurnaround_expired (l : LineRec) :
    LineRec.startTurnaround { l with window := .closed, windowTimer := none } = l.windowExpired := by
  unfold LineRec.startTurnaround LineRec.windowExpired
  dsimp only
  split <;> rfl

/-- The state after the miss of a window's expiry (R124). -/
def State.windowMissed (s : State) (k : Line) (node : Addr) : State :=
  presenceMiss k node (countLine k .pollMiss (s.setLine k (s.line k).windowExpired))

theorem windowExpiry_eq (window : (s.line k).window = .opened o node) : windowExpiry k s =
    if o = .data then awaitExpiry k (s.windowMissed k node) else s.windowMissed k node := by
  have expired : (closeWindow k s).modLine k LineRec.startTurnaround = s.setLine k (s.line k).windowExpired := by
    unfold closeWindow
    rw [State.modLine_modLine, State.modLine_def, LineRec.startTurnaround_expired]
  unfold windowExpiry
  rw [window]
  dsimp only
  rw [expired]
  cases o <;> rfl

/-- The line as the miss finds it. -/
theorem line_expiredCounted : (countLine k .pollMiss (s.setLine k (s.line k).windowExpired)).port k =
    (s.line k).windowExpired.port := by
  rw [countLine_port, State.port, State.line_setLine_same]

theorem windowMissed_ports (k : Line) (node : Addr) (s : State) :
    PortsBut k (s.setLine k (s.line k).windowExpired) (s.windowMissed k node) :=
  (PortsBut.refl _).countLine.presenceMiss

theorem windowMissed_counter {c : LineCounter} (other : c ≠ .qRefused) :
    ((s.windowMissed k node).line k).counter c =
      if c = .pollMiss then satInc ((s.line k).counter .pollMiss) else (s.line k).counter c := by
  have kept (d : LineCounter) : ((s.setLine k (s.line k).windowExpired).line k).counter d = (s.line k).counter d := by
    rw [State.line_setLine_same]; rfl
  rw [State.windowMissed, counter_presenceMiss other, counter_countLine_any, kept, kept]
  simp only [true_and]

theorem windowMissed_pollList : ((s.windowMissed k node).line k).pollList =
    updateEntry node (PollEntry.afterMiss (s.line k).config.missLimit) (s.line k).pollList := by
  have port := line_expiredCounted (s := s) (k := k)
  have config : ((countLine k .pollMiss (s.setLine k (s.line k).windowExpired)).line k).config = (s.line k).config :=
    LineRec.config_of_port (l := (s.line k).windowExpired) port
  have polls : ((countLine k .pollMiss (s.setLine k (s.line k).windowExpired)).line k).pollList = (s.line k).pollList :=
    congrArg PortView.pollList port
  have rolls := (presenceMiss_rolls k node (countLine k .pollMiss (s.setLine k (s.line k).windowExpired)) k).2
  rw [State.line_setLine_same, config, polls] at rolls
  exact rolls

theorem await_of_engine (e : t.engine j = s.engine j) : (t.line j).await = (s.line j).await :=
  congrArg EngineView.await e

theorem await_entryChanged {f : PollEntry → PollEntry} : ((s.entryChanged k node f).line k).await = (s.line k).await := by
  rw [State.line_setLine_same]

/-- A miss that makes the node of the awaiting frame ABSENT returns the frame (R100). -/
theorem presenceMiss_returns {e : PollEntry} (await : (s.line k).await = .waiting i) (dest : (s.frame i).dest = node)
    (out : i ∉ s.pool.free) (found : findEntry node (s.line k).pollList = some e) (present : e.presence ≠ .absent)
    (reached : (s.line k).config.missLimit ≤ e.miss + 1) : ((presenceMiss k node s).line k).await = .empty := by
  have lost : (!e.isAbsent && (e.afterMiss (s.line k).config.missLimit).isAbsent) = true := by
    rw [PollEntry.afterMiss_of_present present, if_pos reached]
    simp [PollEntry.isAbsent, present]
  rw [presenceMiss_found found, if_pos lost]
  have missed : Apart i s (s.entryChanged k node (PollEntry.afterMiss (s.line k).config.missLimit)) :=
    (Apart.refl out).of_eq rfl rfl
  have noted := missed.noteEvent (q := .nodeLost) (l := some k) (v := some node)
  have waits := (await_of_engine (noteEvent_engine k .nodeLost (some k) (some node)
    (s.entryChanged k node (PollEntry.afterMiss (s.line k).config.missLimit)))).trans (await_entryChanged.trans await)
  generalize noteEvent .nodeLost (some k) (some node)
    (s.entryChanged k node (PollEntry.afterMiss (s.line k).config.missLimit)) = v at noted waits
  have still : (v.frame i).dest = node := by rw [State.frame, noted.slot]; exact dest
  rw [returnAbsentAwait_same (.inl waits) still, await_of_engine (returnFrame_engine k .absent i _),
    State.line_setLine_same]

/-- A miss that returns the awaiting frame leaves the await record nothing to expire (R100). -/
theorem windowMissed_returns {e : PollEntry} (await : (s.line k).await = .waiting i) (dest : (s.frame i).dest = node)
    (out : i ∉ s.pool.free) (found : findEntry node (s.line k).pollList = some e) (present : e.presence ≠ .absent)
    (reached : (s.line k).config.missLimit ≤ e.miss + 1) : ((s.windowMissed k node).line k).await = .empty := by
  have port := line_expiredCounted (s := s) (k := k)
  have config : ((countLine k .pollMiss (s.setLine k (s.line k).windowExpired)).line k).config = (s.line k).config :=
    LineRec.config_of_port (l := (s.line k).windowExpired) port
  have polls : ((countLine k .pollMiss (s.setLine k (s.line k).windowExpired)).line k).pollList = (s.line k).pollList :=
    congrArg PortView.pollList port
  have expired : Apart i s (s.setLine k (s.line k).windowExpired) := (Apart.refl out).of_eq rfl rfl
  have counted := expired.countLine (k := k) (c := .pollMiss)
  have waits : ((countLine k .pollMiss (s.setLine k (s.line k).windowExpired)).line k).await = .waiting i := by
    rw [countLine_await, State.line_setLine_same]
    exact await
  unfold State.windowMissed
  exact presenceMiss_returns waits (by rw [State.frame, counted.slot]; exact dest) counted.out (polls ▸ found) present
    (config ▸ reached)

/-- Settles O44: the expiry is a miss and, in a window of origin DATA, the await record's expiry. -/
theorem windowExpiryIsAMiss : Obligations.WindowExpiryIsAMiss := by
  intro s k o node n up window timer missed
  have effect : windowExpiry k s = if o = .data then awaitExpiry k missed else missed := windowExpiry_eq window
  obtain ⟨t, done, follows⟩ := answers_of (exec_replyWindowExpiry s k) up (by rw [timer]; rfl) effect
  have ports : PortsBut k (s.setLine k (s.line k).windowExpired) (if o = .data then awaitExpiry k missed else missed) := by
    split
    · exact (windowMissed_ports k node s).awaitExpiry
    · exact windowMissed_ports k node s
  have rolls : Rolls missed (if o = .data then awaitExpiry k missed else missed) := by
    split
    · exact (Rolls.refl _).awaitExpiry
    · exact Rolls.refl _
  have after := ports.steady follows.steady
  have own : (t.line k).port.masked = (s.line k).windowExpired.port.masked := by
    have := after.own
    rwa [State.port, State.port, State.line_setLine_same] at this
  simp only [PortView.masked, LineRec.port, PortView.mk.injEq] at own
  obtain ⟨config, state, -, -, -, -, -, -, turnaround, -, -, -, memo, -, window', windowTimer⟩ := own
  have counter {c : LineCounter} (other : c ≠ .qRefused) :
      (t.line k).counter c = ((if o = .data then awaitExpiry k missed else missed).line k).counter c :=
    follows.counter k c other
  have expiry {c : LineCounter} (retry : c ≠ .txRetry) (returned : c ≠ .txReturn) (refused : c ≠ .qRefused) :
      (t.line k).counter c = (missed.line k).counter c := by
    rw [counter refused]
    split
    · exact counter_awaitExpiry k c retry returned refused
    · rfl
  have notPollMiss {c : LineCounter} (ne : c ≠ .pollMiss) (refused : c ≠ .qRefused) :
      (missed.line k).counter c = (s.line k).counter c := (windowMissed_counter refused).trans (if_neg ne)
  have untouched (same : (if o = .data then awaitExpiry k missed else missed) = missed) :
      (t.line k).counter .txRetry = (s.line k).counter .txRetry ∧
        (t.line k).counter .txReturn = (s.line k).counter .txReturn := by
    rw [counter (by decide), counter (by decide), same, notPollMiss (by decide) (by decide),
      notPollMiss (by decide) (by decide)]
    exact ⟨rfl, rfl⟩
  refine ⟨t, done, follows, after.globals, fun j ne => ?_, window', windowTimer, turnaround, config, state, memo,
    ?_, ?_, fun c pollMiss retry returned refused => ?_, fun poll => untouched ?_,
    fun i e data await dest out found present reached => untouched ?_⟩
  · rw [after.other j ne, State.port, State.line_setLine_ne _ _ _ _ ne]
    rfl
  · rw [((rolls.steady follows.steady) k).2]
    exact windowMissed_pollList
  · rw [expiry (by decide) (by decide) (by decide)]
    exact (windowMissed_counter (by decide)).trans (if_pos rfl)
  · rw [expiry retry returned refused, notPollMiss pollMiss refused]
  · rw [poll]; rfl
  · rw [if_pos data]
    exact awaitExpiry_none (i := i) (.inl (windowMissed_returns await dest out found present reached))

/-! ## Waits and levels -/

/-- The line when RXD has returned to mark (R17, R22, R23). -/
def LineRec.marked (l : LineRec) : LineRec :=
  { l with
    rxd := .mark
    rx := { l.rx with brk := false }
    faultTimer := none
    recovery := if l.state = .fault ∧ l.rxd = .space then some 50 else l.recovery }

theorem returnToMark_plain
    (goes : ¬ ((s.line k).rx.brk = true ∧ (s.line k).rx.phase = .skip ∧ (s.line k).rx.quiet = none)) :
    returnToMark k s = s.setLine k (s.line k).marked := by
  unfold returnToMark
  dsimp only
  rw [if_neg]
  · rfl
  · simpa [and_assoc] using goes

theorem returnToMark_skip (brk : (s.line k).rx.brk = true) (skip : (s.line k).rx.phase = .skip)
    (quiet : (s.line k).rx.quiet = none) :
    returnToMark k s = damagedReply k (countLine k .rxNoslot (s.setLine k (s.line k).marked.backInHunt)) := by
  unfold returnToMark
  dsimp only
  rw [if_pos (by simp [brk, skip, quiet])]
  exact abandonFrame_setLine _ _

theorem LineRec.marked_active {l : LineRec} (active : l.state = .active) :
    l.marked = { l with rxd := .mark, faultTimer := none, rx := { l.rx with brk := false } } := by
  unfold LineRec.marked
  rw [if_neg fun h => by rw [active] at h; exact nomatch h.1]

/-- Settles O45: each wait and level is one update of the line, and SKIP's end an abandoned frame. -/
theorem lineWaitsAndLevels : Obligations.LineWaitsAndLevels := by
  refine ⟨fun s k n up => ⟨fun wait => ?_, fun pause => ?_⟩, fun s k up => ⟨fun active goes => ?_,
    fun active brk skip quiet => ?_, fun fault space brk => ?_, fun fault => ?_, fun fault recovery => ?_⟩⟩
  · exact answers_of (exec_turnaroundEnd s k) up (by rw [wait]; rfl) rfl
  · exact answers_of (exec_pollPauseExpiry s k) up (by rw [pause]; rfl) rfl
  · refine answers_of (exec_rxdReturnToMark s k) up (by rw [active]; rfl) ?_
    rw [returnToMark_plain goes, LineRec.marked_active active]
  · refine answers_of (exec_rxdReturnToMark s k) up (by rw [active]; rfl) ?_
    rw [returnToMark_skip brk skip quiet, LineRec.marked_active active]
    simp only [LineRec.backInHunt, quiet]
  · refine answers_of (exec_rxdReturnToMark s k) up (by rw [fault]; rfl) ?_
    rw [returnToMark_plain (by simp [brk])]
    unfold LineRec.marked
    rw [if_pos ⟨fault, space⟩, ← brk]
  · exact answers_of (exec_rxdSpaceInFault s k) up (by rw [fault]; rfl) rfl
  · exact answers_of (exec_recoveryTimerExpiry s k) up
      (by rw [fault, Option.isSome_iff_ne_none.mpr recovery]; rfl) rfl

/-! ## The agent -/

theorem takeCommand_takes_head (idle : s.agent.state = .idle) (queue : s.agent.queue = i :: is) : takeCommand s =
    { s with agent := { s.agent with queue := is, current := some i, state := .executing } } := by
  unfold takeCommand
  rw [if_pos idle, queue]
  rfl

theorem offerReply_placed (current : s.agent.current = some i) (arrival : (s.slot i).arrival = some j)
    (active : (s.line j).state = .active) (room : (s.line j).urgentQ.length < 4) : offerReply s =
      (s.setLine j { s.line j with urgentQ := (s.line j).urgentQ ++ [i] }).modAgent Agent.letGo := by
  unfold offerReply
  rw [current]
  dsimp only
  rw [arrival]
  dsimp only
  rw [if_pos active, if_pos room]
  rfl

theorem offerReply_held (current : s.agent.current = some i) (arrival : (s.slot i).arrival = some j)
    (active : (s.line j).state = .active) (full : 4 ≤ (s.line j).urgentQ.length) : offerReply s =
      s.modAgent fun a => { a with state := a.state.holding } := by
  unfold offerReply
  rw [current]
  dsimp only
  rw [arrival]
  dsimp only
  rw [if_pos active, if_neg (Nat.not_lt.mpr full)]

/-- A reply whose line is not ACTIVE, or that came from no line, is released (R136). -/
theorem offerReply_released (current : s.agent.current = some i)
    (down : ∀ j, (s.slot i).arrival = some j → (s.line j).state ≠ .active) : offerReply s = releaseReply i s := by
  unfold offerReply
  rw [current]
  dsimp only
  cases arrival : (s.slot i).arrival with
  | none => rfl
  | some j => exact if_neg (down j arrival)

theorem noteReplyGone_none (none : s.agent.restartReply = none) : noteReplyGone i s = s := by
  unfold noteReplyGone
  rw [none]
  exact if_neg nofun

theorem releaseReply_agent (i : SlotIx) (s : State) :
    (releaseReply i s).agent = (noteReplyGone i (s.modAgent Agent.letGo)).agent := releaseRef_agent i _

theorem restartIfDue_of_reply {r : SlotIx} (held : s.agent.restartReply = some r) : restartIfDue s = s := by
  unfold restartIfDue
  rw [if_neg]
  simp [Agent.restartDue, held]

/-- An offer to an ACTIVE line leaves the RESTART reply on its way (R136). -/
theorem offerReply_restartReply (current : s.agent.current = some i) (arrival : (s.slot i).arrival = some j)
    (active : (s.line j).state = .active) : (offerReply s).agent.restartReply = s.agent.restartReply := by
  by_cases room : (s.line j).urgentQ.length < 4
  · rw [offerReply_placed current arrival active room]
    rfl
  · rw [offerReply_held current arrival active (Nat.not_lt.mp room)]
    rfl

/-- The release of the RESTART reply makes the warm restart due (R145). -/
theorem restartDue_of_released (pending : s.agent.state = .restartPending) (reply : s.agent.restartReply = some i) :
    (releaseReply i s).agent.restartDue = true := by
  rw [releaseReply_agent]
  unfold noteReplyGone
  rw [if_pos (show (s.modAgent Agent.letGo).agent.restartReply = some i from reply)]
  simp [Agent.restartDue, Agent.letGo, AgentState.afterReply, pending]

/-- Settles O47: the agent's taking, its three ways with a reply, and the restart after the last. -/
theorem agentTakesAndOffers : Obligations.AgentTakesAndOffers := by
  have room {s u : State} (up : s.rstnLow = false) (waits : s.agent.waitsForRoom = true)
      (effect : restartIfDue (offerReply s) = u) : ∃ t, exec .replyWaitRoom s = .next t ∧ Follows u t :=
    answers_of (exec_replyWaitRoom s) up waits ((congrArg restartIfDue (if_pos waits)).trans effect)
  refine ⟨fun s i rest up idle queue => ?take, fun s i j current arrival => ⟨fun active room => ?placed,
    fun active full => ?held, fun down state none => ?released⟩, fun s i up state current => ?waits,
    fun s i up state current reply => ⟨fun j arrival active => ?again, fun down => ?restarts⟩⟩
  case take =>
    exact answers_of (exec_agentTake s) up (by rw [idle, queue]; rfl) (takeCommand_takes_head idle queue)
  case placed => exact offerReply_placed current arrival active room
  case held => exact offerReply_held current arrival active full
  case released =>
    have downs (j' : Line) (arrival' : (s.slot i).arrival = some j') : (s.line j').state ≠ .active := by
      rw [arrival] at arrival'
      rw [← Option.some.inj arrival']
      exact down
    have gone : (s.modAgent Agent.letGo).agent.restartReply = .none := none
    rw [offerReply_released current downs, releaseReply, noteReplyGone_none gone]
    simp only [State.modAgent, Agent.letGo, AgentState.afterReply, if_neg state]
  case waits =>
    exact room up (by simp [Agent.waitsForRoom, state, current])
      (restartIfDue_of_state (offerReply_state (by rw [state]; exact nofun)))
  case again =>
    exact room up (by simp [Agent.waitsForRoom, state, current])
      (restartIfDue_of_reply ((offerReply_restartReply current arrival active).trans reply))
  case restarts =>
    refine room up (by simp [Agent.waitsForRoom, state, current]) ?_
    unfold restartIfDue
    rw [offerReply_released current down, if_pos (restartDue_of_released state reply)]

end Sys2Proof.Machine
end


section
/-! PROOFS. Management commands: the tests that stand before a command's own part, replay, and the counters that
COUNT-READ reports. -/

namespace Sys2Proof.Machine

variable {s t u : State} {c : Cmd} {r : Reply} {body : Body} {k : Line}

/-! ## The event of a management command -/

theorem execCommand_completes {code : Byte} (up : s.rstnLow = false) (current : s.command = some c)
    (coded : c.code = code) : ∃ t, execCommand code body s = .next t ∧ Follows (complete body c s) t := by
  have e := State.commandOf_eq current coded
  exact event_follows up (by rw [e]; rfl) (by simp only [e])

theorem execNoticeCommand_completes {code : Byte} (up : s.rstnLow = false) (current : s.command = some c)
    (coded : c.code = code) :
    ∃ t, execNoticeCommand code body s = .next t ∧ Follows (emissionTest (complete body c s)) t := by
  have e := State.commandOf_eq current coded
  exact event_follows up (by rw [e]; rfl) (by simp only [e])

theorem execUnknownCommand_completes (up : s.rstnLow = false) (current : s.command = some c)
    (unknown : commandLength c.code = none) :
    ∃ t, execUnknownCommand s = .next t ∧
      Follows (complete (fun _ s => (s, Reply.refusal .unknown 0#8)) c s) t :=
  event_follows up (by simp only [current, unknown, Option.isNone_none]) (by simp only [current])

/-- A row whose event is the execution completion of the commands with a code, and what follows the reply. -/
def CompletesBy (i : Instr) (code : Byte) (body : Body) : Prop :=
  ∀ s c, s.rstnLow = false → s.command = some c → c.code = code →
    ∃ t, exec i s = .next t ∧ Follows (afterReply i (complete body c s)) t

theorem CompletesBy.of_exec {i : Instr} {code : Byte} (row : ∀ s, exec i s = execCommand code body s)
    (other : ¬ (i = .noticeSet ∨ i = .noticeAck)) : CompletesBy i code body := fun s c up current coded => by
  rw [row s, afterReply, if_neg other]
  exact execCommand_completes up current coded

theorem CompletesBy.of_noticeExec {i : Instr} {code : Byte}
    (row : ∀ s, exec i s = execNoticeCommand code body s) (notice : i = .noticeSet ∨ i = .noticeAck) :
    CompletesBy i code body := fun s c up current coded => by
  rw [row s, afterReply, if_pos notice]
  exact execNoticeCommand_completes up current coded

/-- Each of the 22 commands has a body of its own (Table 12-4). -/
theorem completesBy_of_commandCode {i : Instr} {code : Byte} (coded : commandCode? i = some code) :
    ∃ body, CompletesBy i code body := by
  cases i <;> cases coded
  case noticeSet => exact ⟨_, .of_noticeExec exec_noticeSet (.inl rfl)⟩
  case noticeAck => exact ⟨_, .of_noticeExec exec_noticeAck (.inr rfl)⟩
  all_goals exact ⟨_, .of_exec (fun _ => rfl) (by simp)⟩

/-! ## Tests 2 to 4 of R133 -/

theorem Cmd.decide_unknown (unknown : commandLength c.code = none) :
    c.decide body s = (s, Reply.refusal .unknown 0#8) := by
  simp only [Cmd.decide, unknown]

theorem Cmd.decide_length {n : Nat} (needs : commandLength c.code = some n) (wrong : c.len ≠ n) :
    c.decide body s = (s, Reply.refusal .length 0#8) := by
  simp only [Cmd.decide, needs, if_pos wrong]

theorem Cmd.fromHolder_iff {a : Agent} :
    c.fromHolder a = true ↔ ∃ h, a.claim = some h ∧ c.src = h.holder ∧ c.arrival = some h.line := by
  unfold Cmd.fromHolder
  split <;> simp_all

theorem Cmd.not_fromHolder_of_free {a : Agent} (free : a.claim = none) : c.fromHolder a = false := by
  simp only [Cmd.fromHolder, free]

theorem Cmd.not_fromHolder_of_other {a : Agent} {h : Claim} (held : a.claim = some h)
    (other : ¬ (c.src = h.holder ∧ c.arrival = some h.line)) : c.fromHolder a = false := by
  simpa only [Cmd.fromHolder, held, Bool.and_eq_false_iff, decide_eq_false_iff_not, not_and_or] using other

theorem Cmd.decide_noClaim (length : commandLength c.code = some c.len) (needs : c.needsClaim = true)
    (free : s.agent.claim = none) : c.decide body s = (s, Reply.refusal .noClaim 0#8) := by
  simp [Cmd.decide, length, needs, Cmd.not_fromHolder_of_free free, free]

theorem Cmd.decide_claimed {h : Claim} (length : commandLength c.code = some c.len) (needs : c.needsClaim = true)
    (held : s.agent.claim = some h) (other : ¬ (c.src = h.holder ∧ c.arrival = some h.line)) :
    c.decide body s = (s, Reply.claimed h) := by
  simp [Cmd.decide, length, needs, Cmd.not_fromHolder_of_other held other, held]

/-- A command that a test refuses is answered so, with nothing else changed. -/
theorem complete_of_refusal (current : s.command = some c) (fresh : c.replay s.agent = none)
    (refused : c.decide body s = (s, r)) (status : r.status ≠ .ok) : complete body c s = s.replied c r := by
  have running : s.agent.state ≠ .restartPending := by rw [State.state_of_command current]; nofun
  have unrecorded : recordReply c r s = s := if_neg fun ok => status ok.1
  unfold complete
  rw [fresh]
  simp only [refused, unrecorded]
  exact replied_eq running

/-! ## Replay (R143, R144) -/

theorem Cmd.replay_eq_some_iff {a : Agent} {b : List Byte} :
    c.replay a = some b ↔ ∃ h e, a.claim = some h ∧ c.src = h.holder ∧ c.arrival = some h.line ∧
      a.cache = some e ∧ c.tag ≠ 0#8 ∧ c.code = e.code ∧ c.tag = e.tag ∧ b = e.reply := by
  unfold Cmd.replay
  constructor
  · intro replayed
    split at replayed
    · next e cached =>
      obtain ⟨⟨holder, tagged, code, tag⟩, reply⟩ := Option.ite_none_right_eq_some.mp replayed
      obtain ⟨h, held, source, line⟩ := Cmd.fromHolder_iff.mp holder
      exact ⟨h, e, held, source, line, cached, tagged, code, tag, (Option.some.inj reply).symm⟩
    · cases replayed
  · rintro ⟨h, e, held, source, line, cached, tagged, code, tag, rfl⟩
    have holder : c.fromHolder a = true := Cmd.fromHolder_iff.mpr ⟨h, held, source, line⟩
    simp only [cached]
    exact if_pos ⟨holder, tagged, code, tag⟩

/-- A command answered by replay is not carried out: the lease starts again and the cached reply is sent. -/
theorem complete_of_replay {bytes : List Byte} (current : s.command = some c)
    (cached : c.replay s.agent = some bytes) :
    complete body c s = offerReply
      (({ s with agent := { s.agent with lease := some s.agent.leaseSetting } }).modFrame c.slot (fun f =>
        { dest := f.src, src := s.route.relayAddr, kind := .mreply, confirm := false, seq := f.seq
          len := 2 + bytes.length, payload := [c.code, c.tag] ++ bytes })) := by
  have running : (buildReply c bytes (startLease s)).agent.state ≠ .restartPending := by
    rw [buildReply, State.modFrame_agent, startLease, State.modAgent_agent, State.state_of_command current]
    nofun
  have built : buildReply c bytes (startLease s) =
      ({ s with agent := { s.agent with lease := some s.agent.leaseSetting } }).modFrame c.slot (fun f =>
        { dest := f.src, src := s.route.relayAddr, kind := .mreply, confirm := false, seq := f.seq
          len := 2 + bytes.length, payload := [c.code, c.tag] ++ bytes }) := by
    have length : ([c.code, c.tag] ++ bytes).length = 2 + bytes.length := Nat.add_comm _ 2
    rw [← length]
    rfl
  unfold complete
  rw [cached]
  exact (restartIfDue_of_state (offerReply_state running)).trans (congrArg offerReply built)

/-! ## The lengths and the claim, command by command (Tables 8-3 and 12-4) -/

theorem commandLength_eq_none_iff {code : Byte} : commandLength code = none ↔ code = 0#8 ∨ 0x16#8 < code := by
  unfold commandLength
  split <;> simp only [reduceCtorEq, false_iff, true_iff, imp_false] at * <;> bv_omega

theorem Cmd.needsClaim_iff (c : Cmd) : c.needsClaim = true ↔
    c.code ∈ [0x03#8, 0x05#8, 0x06#8, 0x07#8, 0x08#8, 0x0A#8, 0x0B#8, 0x0D#8, 0x0E#8, 0x12#8, 0x14#8, 0x16#8] ∨
      (c.code = 0x0F#8 ∧ byteAt c.ops 1 ≠ 0#8) := by
  unfold Cmd.needsClaim
  split <;> simp_all [← BitVec.toNat_inj]

/-- Settles O48: a command's event is `complete` of its own part; the tests refuse before that part is reached. -/
theorem commandTestsRefuseOrReplay : Obligations.CommandTestsRefuseOrReplay := by
  refine ⟨⟨?tests, ?unknown, fun _ => commandLength_eq_none_iff, by decide, Cmd.needsClaim_iff,
    fun _ _ => Cmd.fromHolder_iff, fun _ _ _ => Cmd.replay_eq_some_iff⟩, ?replay⟩
  case tests =>
    intro i code n s c coded length up current own fresh
    obtain ⟨body, completes⟩ := completesBy_of_commandCode coded
    have answer {r : Reply} (refused : c.decide body s = (s, r)) (status : r.status ≠ .ok) :
        ∃ t, exec i s = .next t ∧ Follows (afterReply i (s.replied c r)) t := by
      rw [← complete_of_refusal current fresh refused status]
      exact completes s c up current own
    subst own
    refine ⟨fun wrong => answer (Cmd.decide_length length wrong) nofun, ?free, ?other⟩
    case free => rintro rfl needs free; exact answer (Cmd.decide_noClaim length needs free) nofun
    case other =>
      rintro h rfl needs held other
      exact answer (Cmd.decide_claimed length needs held other) nofun
  case unknown =>
    intro s c up current unknown fresh
    have refused := complete_of_refusal (body := fun _ s => (s, Reply.refusal .unknown 0#8)) current fresh
      (Cmd.decide_unknown unknown) nofun
    have row := execUnknownCommand_completes up current unknown
    rw [refused] at row
    exact row
  case replay =>
    intro i s c h e up coded current held source line cached tagged code tag
    obtain ⟨body, completes⟩ := completesBy_of_commandCode coded
    rw [← complete_of_replay (body := body) current
      (Cmd.replay_eq_some_iff.mpr ⟨h, e, held, source, line, cached, tagged, code, tag, rfl⟩)]
    exact completes s c up current rfl

/-! ## COUNT-READ (R156) -/

/-- Bytes listed counter by counter are the bytes of the counters in index order. -/
theorem flatMap_toList_eq {n : Nat} (v : Vector (BitVec 16) n) :
    v.toList.flatMap wordBytes = (List.finRange n).flatMap (fun m => [hiByte (v.get m), loByte (v.get m)]) := by
  have listed : v.toList = (List.finRange n).map v.get := by
    apply List.ext_getElem <;> simp [Vector.get_eq_getElem]
  rw [listed, List.flatMap_map]
  rfl

theorem lineOfByte?_of_eq {b : Byte} (h : b.toNat = k.val) : lineOfByte? b = some k := by
  simp [lineOfByte?, h]

theorem lineOfByte?_of_gt {b : Byte} (h : 7 < b.toNat) : lineOfByte? b = none :=
  dif_neg (not_lt.mpr h)

theorem countReadBody_line (selected : (byteAt c.ops 0).toNat = k.val) :
    countReadBody c s =
      (if byteAt c.ops 1 ≠ 0#8 then s.setLine k { s.line k with counters := Vector.replicate 16 0#16 } else s,
        Reply.ok (s.line k).counterBytes) := by
  simp only [countReadBody, lineOfByte?_of_eq selected, decide_eq_true_eq]
  rfl

theorem countReadBody_relay (selected : byteAt c.ops 0 = 8#8) :
    countReadBody c s =
      (if byteAt c.ops 1 ≠ 0#8 then
          { s with route := { s.route with counters := Vector.replicate 7 0#16 } } else s,
        Reply.ok s.route.counterBytes) := by
  simp only [countReadBody, selected, if_true, decide_eq_true_eq]
  rfl

theorem countReadBody_refused (selected : 8 < (byteAt c.ops 0).toNat) :
    countReadBody c s = (s, Reply.operand 1) := by
  have relay : byteAt c.ops 0 ≠ 8#8 := fun e => by rw [e] at selected; exact absurd selected (by decide)
  have none : lineOfByte? (byteAt c.ops 0) = none := lineOfByte?_of_gt (by omega)
  simp only [countReadBody, none, if_neg relay]

/-- A command answered OK with an effect that is made only under a condition. -/
theorem exists_of_ite {p : Prop} [Decidable p] {i : Instr} {v : State}
    (row : ∃ t, exec i s = .next t ∧ Follows ((if p then u else v).answeredOk c r) t) :
    ∃ t, exec i s = .next t ∧ (p → Follows (u.answeredOk c r) t) ∧ (¬ p → Follows (v.answeredOk c r) t) := by
  obtain ⟨t, next, follows⟩ := row
  exact ⟨t, next, fun yes => by rwa [if_pos yes] at follows, fun no => by rwa [if_neg no] at follows⟩

theorem countRead_reports (ready : Ready s c) (code : c.code = 0x0F#8) :
    (∀ k : Line, (byteAt c.ops 0).toNat = k.val → ∃ t, exec .countRead s = .next t ∧
      (byteAt c.ops 1 ≠ 0#8 → Follows ((s.setLine k { s.line k with
        counters := Vector.replicate 16 0#16 }).answeredOk c (.ok (s.line k).counterBytes)) t) ∧
      (¬ byteAt c.ops 1 ≠ 0#8 → Follows (s.answeredOk c (.ok (s.line k).counterBytes)) t)) ∧
    (byteAt c.ops 0 = 8#8 → ∃ t, exec .countRead s = .next t ∧
      (byteAt c.ops 1 ≠ 0#8 → Follows (({ s with route := { s.route with
        counters := Vector.replicate 7 0#16 } }).answeredOk c (.ok s.route.counterBytes)) t) ∧
      (¬ byteAt c.ops 1 ≠ 0#8 → Follows (s.answeredOk c (.ok s.route.counterBytes)) t)) ∧
    (8 < (byteAt c.ops 0).toNat → ∃ t, exec .countRead s = .next t ∧
      Follows (s.replied c { status := .operand, detail := 1#8, results := [] }) t) := by
  have running {p : Prop} [Decidable p] (u : State) (agent : u.agent = s.agent) :
      (if p then u else s).agent.state ≠ .restartPending := by
    split
    · rw [agent]; exact ready.running
    · exact ready.running
  refine ⟨fun k selected => ?_, fun selected => ?_, fun selected => ?_⟩
  · exact exists_of_ite (execCommand_ok ready code (countReadBody_line selected) rfl (running _ rfl))
  · exact exists_of_ite (execCommand_ok ready code (countReadBody_relay selected) rfl (running _ rfl))
  · exact execCommand_refused ready code (countReadBody_refused selected) nofun

/-! ## Counting (R37, R71, R157) -/

theorem satInc_spec (v : BitVec 16) : (v.toNat < 65535 → (satInc v).toNat = v.toNat + 1) ∧
    satInc 0xFFFF#16 = 0xFFFF#16 := by
  refine ⟨fun below => ?_, rfl⟩
  have ne : v ≠ 0xFFFF#16 := by bv_omega
  rw [satInc, if_neg ne]
  bv_omega

/-- A counter is one short of its end as a number exactly when it is as a word. -/
theorem toNat_eq_65534_iff {v : BitVec 16} : v.toNat = 65534 ↔ v = 0xFFFE#16 := by
  rw [← BitVec.toNat_inj]; rfl

theorem countRelay_eq (c : RelayCounter) (s : State) :
    ((s.route.counter c).toNat = 65534 → countRelay c s =
      noteEvent .counterFull none (some (BitVec.ofNat 16 c.index.val)) (s.bumpRelay c)) ∧
    ((s.route.counter c).toNat ≠ 65534 → countRelay c s = s.bumpRelay c) := by
  simp only [countRelay, ne_eq, toNat_eq_65534_iff]
  exact ⟨fun full => if_pos full, fun short => if_neg short⟩

theorem countLine_eq (k : Line) (c : LineCounter) (s : State) :
    (((s.line k).counter c).toNat = 65534 → countLine k c s =
      noteEvent .counterFull (some k) (some (BitVec.ofNat 16 c.index.val)) (s.bumpLine k c)) ∧
    (((s.line k).counter c).toNat ≠ 65534 → countLine k c s = s.bumpLine k c) := by
  simp only [countLine, ne_eq, toNat_eq_65534_iff]
  exact ⟨fun full => if_pos full, fun short => if_neg short⟩

/-- Settles O56: COUNT-READ's own part by the selector; an increment is the bump of one counter, which the event of
a full counter leaves as it is. -/
theorem countReadReportsAndClears : Obligations.CountReadReportsAndClears := by
  refine ⟨?reads, satInc_spec, ?line, ?relay, by decide, by decide⟩
  case reads =>
    intro s c ready code clear
    simp only [← flatMap_toList_eq]
    exact countRead_reports ready code
  case line =>
    intro s k c v u
    obtain ⟨full, short⟩ := countLine_eq k c s
    refine ⟨full, short, ?_, fun d ne => ?_, fun j d ne => ?_⟩
    · rw [counter_countLine_any, if_pos ⟨rfl, rfl⟩]
    · rw [counter_countLine_any, if_neg fun e => ne e.2]
    · rw [counter_countLine_any, if_neg fun e => ne e.1]
  case relay =>
    intro s c v u
    obtain ⟨full, short⟩ := countRelay_eq c s
    refine ⟨full, short, ?_, fun d ne => ?_⟩
    · exact (counter_bumpRelay s c c).trans (if_pos rfl)
    · exact (counter_bumpRelay s c d).trans (if_neg ne)

end Sys2Proof.Machine
end


section
/-! PROOFS. The commands that read, by the layouts of their results; the beginning and the end of the claim. -/

namespace Sys2Proof.Machine

variable {s t u : State} {c : Cmd} {r : Reply} {body : Body} {k : Line}

/-! ## Layouts (Tables 12-3 and 12-4) -/

theorem numBytes2_eq (n : Nat) : numBytes2 n = [numByte (n / 256), numByte n] := by
  have hi : hiByte (BitVec.ofNat 16 n) = numByte (n / 256) := by
    apply BitVec.eq_of_toNat_eq
    simp only [hiByte, numByte, BitVec.extractLsb'_toNat, BitVec.toNat_ofNat, Nat.shiftRight_eq_div_pow]
    omega
  have lo : loByte (BitVec.ofNat 16 n) = numByte n := by
    apply BitVec.eq_of_toNat_eq
    simp only [loByte, numByte, BitVec.extractLsb'_toNat, BitVec.toNat_ofNat, Nat.shiftRight_zero]
    omega
  rw [numBytes2, wordBytes, hi, lo]

theorem boolByte_occupied (a : Await) : boolByte a.occupied = if a = .empty then 0#8 else 1#8 := by
  cases a <;> rfl

theorem boolByte_isSome (o : Option SlotIx) : boolByte o.isSome = if o = none then 0#8 else 1#8 := by
  cases o <;> rfl

theorem PoolState.code_eq (p : PoolState) : p.code = if p = .normal then 0#8 else 1#8 := by
  cases p <;> rfl

theorem NoticeState.code_eq (n : NoticeState) : n.code = if n = .idle then 0#8 else 1#8 := by
  cases n <;> rfl

/-- The records listed by kind are the records in index order. -/
theorem flatMap_allKinds (f : Fin 8 → List Byte) :
    allKinds.flatMap (fun q => f q.code) = (List.finRange 8).flatMap f := by
  have kinds : allKinds.map NoticeKind.code = List.finRange 8 := by decide
  rw [← kinds, List.flatMap_map]

/-! ## Answers of a command that reads -/

/-- A command that reports, and changes nothing itself. -/
theorem execCommand_reports {code : Byte} {results : List Byte} (ready : Ready s c) (coded : c.code = code)
    {report : List Byte} (own : body c s = (s, Reply.ok report)) (layout : report = results) :
    ∃ t, execCommand code body s = .next t ∧
      Follows (s.answeredOk c { status := .ok, detail := 0#8, results := results }) t := by
  subst layout
  exact execCommand_ok ready coded own rfl ready.running

theorem lineReadBody_line (named : (byteAt c.ops 0).toNat = k.val) :
    lineReadBody c s = (s, Reply.ok (s.line k).report) := by
  simp only [lineReadBody, lineOfByte?_of_eq named]

theorem lineReadBody_refused (beyond : 7 < (byteAt c.ops 0).toNat) : lineReadBody c s = (s, Reply.operand 1) := by
  simp only [lineReadBody, lineOfByte?_of_gt beyond]

theorem lineOfByte?_of_le {b : Byte} (h : b.toNat ≤ 7) : ∃ k, lineOfByte? b = some k :=
  ⟨⟨b.toNat, by omega⟩, lineOfByte?_of_eq rfl⟩

theorem pollReadBody_line (named : (byteAt c.ops 0).toNat = k.val) (index : (byteAt c.ops 1).toNat ≤ 15) :
    pollReadBody c s = (s, Reply.ok ((s.line k).pollReport (byteAt c.ops 1).toNat)) := by
  simp only [pollReadBody, lineOfByte?_of_eq named, if_neg (not_lt.mpr index)]

theorem pollReadBody_refused (beyond : 7 < (byteAt c.ops 0).toNat) : pollReadBody c s = (s, Reply.operand 1) := by
  simp only [pollReadBody, lineOfByte?_of_gt beyond]

theorem pollReadBody_index (named : (byteAt c.ops 0).toNat ≤ 7) (beyond : 15 < (byteAt c.ops 1).toNat) :
    pollReadBody c s = (s, Reply.operand 2) := by
  obtain ⟨k, named⟩ := lineOfByte?_of_le named
  simp only [pollReadBody, named, if_pos beyond]

theorem routeReadBody_entry {n : Fin 64} (table : (byteAt c.ops 0).toNat ≤ 1)
    (index : (byteAt c.ops 1).toNat = n.val) :
    routeReadBody c s = (s, Reply.ok ((if byteAt c.ops 0 = 0#8 then s.route.active.get n
      else s.route.shadow.get n).bytes ++ wordBytes s.route.generation)) := by
  obtain zero | one := eq_zero_or_one_of_le table
  · simp [routeReadBody, entryOfByte?_of_eq index, zero]
  · simp [routeReadBody, entryOfByte?_of_eq index, one]

theorem routeReadBody_refused (beyond : 1 < (byteAt c.ops 0).toNat) : routeReadBody c s = (s, Reply.operand 1) := by
  unfold routeReadBody
  dsimp only
  split
  · omega
  · omega
  · rfl

theorem routeReadBody_index (table : (byteAt c.ops 0).toNat ≤ 1) (beyond : 63 < (byteAt c.ops 1).toNat) :
    routeReadBody c s = (s, Reply.operand 2) := by
  obtain zero | one := eq_zero_or_one_of_le table
  · simp [routeReadBody, entryOfByte?_of_gt beyond, zero]
  · simp [routeReadBody, entryOfByte?_of_gt beyond, one]

/-- Settles O49: each reading command answers OK with a report of the state, whose bytes are those of its layout. -/
theorem readingCommandsReport : Obligations.ReadingCommandsReport := by
  refine ⟨fun s c ready => ⟨fun ident => ?ident, fun pool => ?pool, fun relay => ?relay, fun notice => ?notice⟩,
    fun s c ready => ⟨fun line => ⟨?line, fun beyond => ?line1⟩,
      fun poll => ⟨?poll, fun beyond => ?poll1, fun named beyond => ?poll2⟩,
      fun route => ⟨?route, fun beyond => ?route1, fun table beyond => ?route2⟩⟩⟩
  case ident => exact execCommand_reports ready ident (body := identBody) rfl rfl
  case pool =>
    refine execCommand_reports ready pool (body := poolReadBody) rfl ?_
    rw [State.poolReport, PoolState.code_eq]
    rfl
  case relay =>
    refine execCommand_reports ready relay (body := relayReadBody) rfl ?_
    unfold State.relayReport
    cases s.route.defaultAction <;> rfl
  case notice =>
    refine execCommand_reports ready notice (body := noticeReadBody) rfl ?_
    rw [NoticeUnit.report, flatMap_allKinds fun n => (s.notice.records.get n).bytes, NoticeState.code_eq]
    rw [List.append_assoc _ [s.notice.mask]]
    refine congrArg₂ (· ++ ·) (congrArg₂ (· ++ ·) (congrArg₂ (· ++ ·) ?_ rfl) rfl) rfl
    refine congrArg (fun f => (List.finRange 8).flatMap f) (funext fun n => ?_)
    dsimp only
    generalize s.notice.records.get n = x
    unfold NoticeRecord.bytes
    cases x.line <;> cases x.value <;> rfl
  case line =>
    intro k named
    refine execCommand_reports ready line (lineReadBody_line named) ?_
    rw [LineRec.report, boolByte_occupied, boolByte_isSome, LineConfig.bytes, numBytes2_eq, numBytes2_eq]
    dsimp only
    cases (s.line k).config.mode <;> cases (s.line k).config.parity <;> cases (s.line k).state <;> rfl
  case line1 => exact execCommand_refused ready line (lineReadBody_refused beyond) nofun
  case poll =>
    intro k named index
    refine execCommand_reports ready poll (pollReadBody_line named index) ?_
    unfold LineRec.pollReport
    cases (s.line k).pollList[(byteAt c.ops 1).toNat]? with
    | none => rfl
    | some e => cases e.presence <;> rfl
  case poll1 => exact execCommand_refused ready poll (pollReadBody_refused beyond) nofun
  case poll2 => exact execCommand_refused ready poll (pollReadBody_index named beyond) nofun
  case route =>
    intro n table index
    refine execCommand_reports ready route (routeReadBody_entry table index) ?_
    dsimp only
    generalize (if byteAt c.ops 0 = 0#8 then s.route.active.get n else s.route.shadow.get n) = e
    unfold RouteEntry.bytes
    cases e.target <;> cases e.rewrite <;> rfl
  case route1 => exact execCommand_refused ready route (routeReadBody_refused beyond) nofun
  case route2 => exact execCommand_refused ready route (routeReadBody_index table beyond) nofun

/-! ## The claim (R140 to R143) -/

theorem State.answeredOk_of_holder (holder : c.fromHolder u.agent = true) :
    u.answeredOk c r =
      ({ u with agent := { u.agent with
          lease := some u.agent.leaseSetting
          cache := some { code := c.code, tag := c.tag, reply := [r.status.code, r.detail] ++ r.results } } }).replied
        c r := by
  rw [State.answeredOk, State.recorded, if_pos holder]
  rfl

theorem State.answeredOk_of_other (other : c.fromHolder u.agent = false) : u.answeredOk c r = u.replied c r := by
  rw [State.answeredOk, State.recorded, if_neg (by rw [other]; nofun)]

theorem claimBody_free (free : s.agent.claim = none) (arrival : c.arrival = some k) :
    claimBody c s = ({ s with agent := { s.agent with
      claim := some { holder := c.src, line := k }, lease := some s.agent.leaseSetting, cache := none } },
      Reply.ok [numByte s.agent.leaseSetting]) := by
  simp only [claimBody, free, arrival]
  rfl

theorem claimBody_renewed {h : Claim} (held : s.agent.claim = some h) (holder : c.fromHolder s.agent = true) :
    claimBody c s = (startLease s, Reply.ok [numByte s.agent.leaseSetting]) := by
  simp only [claimBody, held, if_pos holder]

theorem claimBody_other {h : Claim} (held : s.agent.claim = some h) (other : c.fromHolder s.agent = false) :
    claimBody c s = (s, Reply.claimed h) := by
  simp only [claimBody, held, other]
  rfl

theorem claim_answers (ready : Ready s c) (code : c.code = 0x02#8)
    (own : claimBody c s = (u, Reply.ok [numByte s.agent.leaseSetting])) (state : u.agent.state = s.agent.state)
    (holder : c.fromHolder u.agent = true) (e : u.agent.leaseSetting = s.agent.leaseSetting) :
    ∃ t, exec .claim s = .next t ∧
      Follows (({ u with agent := { u.agent with
          lease := some s.agent.leaseSetting
          cache := some { code := c.code, tag := c.tag, reply := [0#8, 0#8, numByte s.agent.leaseSetting] } } }).replied
        c { status := .ok, detail := 0#8, results := [numByte s.agent.leaseSetting] }) t := by
  obtain ⟨t, next, follows⟩ := execCommand_ok ready code own rfl (by rw [state]; exact ready.running)
  rw [State.answeredOk_of_holder holder, e] at follows
  exact ⟨t, next, follows⟩

/-- The claim's end is what `endClaim` writes, and the event of a lapse leaves it so. -/
theorem leaseExpiry_answers {h : Claim} {n : Nat} (up : s.rstnLow = false) (held : s.agent.claim = some h)
    (running : s.agent.lease = some n) : ∃ t, exec .leaseExpiry s = .next t ∧
      Follows (noteEvent .claimLapsed (some h.line) (some h.holder) (endClaim s)) t ∧
      t.route.shadow = s.route.active ∧ t.agent.claim = none ∧ t.agent.lease = none ∧ t.agent.cache = none := by
  have lapsed : lapse s = noteEvent .claimLapsed (some h.line) (some h.holder) (endClaim s) := by
    simp only [lapse, held]
  obtain ⟨t, next, follows⟩ := answers_of (exec_leaseExpiry s) up (by rw [running]; rfl) lapsed
  have kept : t.globals = (endClaim s).globals :=
    follows.steady.globals.trans (Calm.refl (endClaim s)).noteEvent.globals
  exact ⟨t, next, follows, congrArg Globals.shadow kept, congrArg Globals.claim kept, congrArg Globals.lease kept,
    congrArg Globals.cache kept⟩

/-- Settles O50: CLAIM by the holder the agent has, RELEASE and the expiry by `endClaim`. -/
theorem claimBeginsAndEnds : Obligations.ClaimBeginsAndEnds := by
  constructor
  · intro s c ready code ok
    refine ⟨fun k free arrival => ?_, fun h held source line => ?_, fun h held other => ?_⟩
    · exact claim_answers ready code (claimBody_free free arrival) rfl
        (Cmd.fromHolder_iff.mpr ⟨_, rfl, rfl, arrival⟩) rfl
    · have holder : c.fromHolder s.agent = true := Cmd.fromHolder_iff.mpr ⟨h, held, source, line⟩
      exact claim_answers (u := startLease s) ready code (claimBody_renewed held holder) rfl holder rfl
    · have own := claimBody_other held (Cmd.not_fromHolder_of_other held other)
      exact execCommand_refused ready code own nofun
  · intro s up freed
    refine ⟨fun c ready code => ?_, fun h n held running => leaseExpiry_answers up held running⟩
    have row := execCommand_ok (u := freed) (body := releaseBody) ready code rfl rfl ready.running
    rw [State.answeredOk_of_other (Cmd.not_fromHolder_of_free rfl)] at row
    exact row

end Sys2Proof.Machine
end


section
/-! PROOFS. The commands of the poll lists and of the notice unit. -/

namespace Sys2Proof.Machine

variable {s t u : State} {c : Cmd} {r : Reply} {body : Body} {k : Line} {n : Nat} {node : Addr} {es : List PollEntry}

/-! ## POLL-WRITE (R127) -/

theorem heldElsewhere_iff :
    heldElsewhere es n node = true ↔ ∃ m, m ≠ n ∧ ∃ e, es[m]? = some e ∧ e.node = node := by
  simp only [heldElsewhere, List.any_eq_true, decide_eq_true_eq, List.mem_eraseIdx_iff_getElem?]
  constructor
  · rintro ⟨e, ⟨m, ne, at_⟩, held⟩; exact ⟨m, ne, e, at_, held⟩
  · rintro ⟨m, ne, e, at_, held⟩; exact ⟨e, ⟨m, ne, at_⟩, held⟩

theorem pollWriteBody_line (beyond : 7 < (byteAt c.ops 0).toNat) : pollWriteBody c s = (s, Reply.operand 1) := by
  simp only [pollWriteBody, lineOfByte?_of_gt beyond]

section
variable (named : (byteAt c.ops 0).toNat = k.val)
include named

/-- POLL-WRITE's chain of tests for a line, each written by its condition. -/
theorem pollWriteBody_eq : pollWriteBody c s =
    let n := (byteAt c.ops 1).toNat
    let node := wordAt c.ops 2
    let es := (s.line k).pollList
    let es' := if n < es.length then es.set n (PollEntry.fresh node) else es ++ [PollEntry.fresh node]
    if node = 0#16 ∨ node = 0xFFFF#16 then (s, Reply.operand 3)
    else if es.length < n then (s, Reply.operand 2)
    else if heldElsewhere es n node = true then (s, Reply.operand 3)
    else if n = es.length ∧ 16 ≤ es.length then (s, Reply.refusal .full 0#8)
    else (s.setLine k { s.line k with pollList := es' }, Reply.ok [numByte es'.length]) := by
  simp only [pollWriteBody, lineOfByte?_of_eq named]
  rfl

theorem pollWriteBody_node (broadcast : wordAt c.ops 2 = 0#16 ∨ wordAt c.ops 2 = 0xFFFF#16) :
    pollWriteBody c s = (s, Reply.operand 3) := by
  rw [pollWriteBody_eq named]
  exact if_pos broadcast

variable (low : wordAt c.ops 2 ≠ 0#16) (high : wordAt c.ops 2 ≠ 0xFFFF#16)
include low high

theorem pollWriteBody_index (beyond : (s.line k).pollList.length < (byteAt c.ops 1).toNat) :
    pollWriteBody c s = (s, Reply.operand 2) := by
  rw [pollWriteBody_eq named]
  exact (if_neg (not_or.mpr ⟨low, high⟩)).trans (if_pos beyond)

theorem pollWriteBody_held (index : (byteAt c.ops 1).toNat ≤ (s.line k).pollList.length)
    (elsewhere : heldElsewhere (s.line k).pollList (byteAt c.ops 1).toNat (wordAt c.ops 2) = true) :
    pollWriteBody c s = (s, Reply.operand 3) := by
  rw [pollWriteBody_eq named]
  exact (if_neg (not_or.mpr ⟨low, high⟩)).trans ((if_neg (not_lt.mpr index)).trans (if_pos elsewhere))

variable (single : ¬ heldElsewhere (s.line k).pollList (byteAt c.ops 1).toNat (wordAt c.ops 2) = true)
include single

theorem pollWriteBody_full (append : (byteAt c.ops 1).toNat = (s.line k).pollList.length)
    (full : 16 ≤ (byteAt c.ops 1).toNat) : pollWriteBody c s = (s, Reply.refusal .full 0#8) := by
  rw [pollWriteBody_eq named]
  exact (if_neg (not_or.mpr ⟨low, high⟩)).trans ((if_neg (not_lt.mpr append.le)).trans
    ((if_neg single).trans (if_pos ⟨append, append ▸ full⟩)))

theorem pollWriteBody_replaces (index : (byteAt c.ops 1).toNat < (s.line k).pollList.length) :
    pollWriteBody c s = (s.setLine k { s.line k with
      pollList := (s.line k).pollList.set (byteAt c.ops 1).toNat (PollEntry.fresh (wordAt c.ops 2)) },
      Reply.ok [numByte (s.line k).pollList.length]) := by
  rw [pollWriteBody_eq named]
  refine (if_neg (not_or.mpr ⟨low, high⟩)).trans ((if_neg (not_lt.mpr index.le)).trans
    ((if_neg single).trans ((if_neg fun full => index.ne full.1).trans ?_)))
  rw [if_pos index, List.length_set]

theorem pollWriteBody_appends (append : (byteAt c.ops 1).toNat = (s.line k).pollList.length)
    (room : (byteAt c.ops 1).toNat < 16) :
    pollWriteBody c s = (s.setLine k { s.line k with
      pollList := (s.line k).pollList ++ [PollEntry.fresh (wordAt c.ops 2)] },
      Reply.ok [numByte ((s.line k).pollList.length + 1)]) := by
  have open_ : ¬ ((byteAt c.ops 1).toNat = (s.line k).pollList.length ∧ 16 ≤ (s.line k).pollList.length) :=
    fun full => absurd full.2 (not_le.mpr (append ▸ room))
  rw [pollWriteBody_eq named]
  refine (if_neg (not_or.mpr ⟨low, high⟩)).trans ((if_neg (not_lt.mpr append.le)).trans
    ((if_neg single).trans ((if_neg open_).trans ?_)))
  rw [if_neg (not_lt.mpr append.ge), List.length_append, List.length_singleton]

end

/-! ## POLL-REMOVE (R128) -/

theorem pollRemoveBody_line (beyond : 7 < (byteAt c.ops 0).toNat) : pollRemoveBody c s = (s, Reply.operand 1) := by
  simp only [pollRemoveBody, lineOfByte?_of_gt beyond]

theorem pollRemoveBody_index (named : (byteAt c.ops 0).toNat = k.val)
    (beyond : (s.line k).pollList.length ≤ (byteAt c.ops 1).toNat) :
    pollRemoveBody c s = (s, Reply.operand 2) := by
  simp only [pollRemoveBody, lineOfByte?_of_eq named, if_pos beyond]

theorem pollRemoveBody_removes (named : (byteAt c.ops 0).toNat = k.val)
    (index : (byteAt c.ops 1).toNat < (s.line k).pollList.length) :
    pollRemoveBody c s = (s.setLine k { s.line k with
      pollList := (s.line k).pollList.take (byteAt c.ops 1).toNat ++
        (s.line k).pollList.drop ((byteAt c.ops 1).toNat + 1)
      pollPos := if (byteAt c.ops 1).toNat < (s.line k).pollPos then (s.line k).pollPos - 1
        else (s.line k).pollPos }, Reply.ok [numByte ((s.line k).pollList.length - 1)]) := by
  simp only [pollRemoveBody, lineOfByte?_of_eq named, if_neg (not_le.mpr index), List.length_eraseIdx_of_lt index]
  rw [List.eraseIdx_eq_take_drop_succ]
  rfl

/-- Settles O55: each refusal is the first test of the chain that fails, and the list after it is that of the body. -/
theorem pollListCommands : Obligations.PollListCommands := by
  refine ⟨?beyond, fun s c k ready named => ?named⟩
  case beyond =>
    rintro s c i ready beyond (⟨code, rfl⟩ | ⟨code, rfl⟩)
    · exact execCommand_refused ready code (pollWriteBody_line beyond) nofun
    · exact execCommand_refused ready code (pollRemoveBody_line beyond) nofun
  case named =>
    intro n node es refused elsewhere
    have held : elsewhere ↔ heldElsewhere es n node = true := heldElsewhere_iff.symm
    refine ⟨fun code => ⟨?node, ?index, ?held, ?full, ?replaces, ?appends⟩, fun code => ⟨?absent, ?removes⟩⟩
    case node => exact fun bad => execCommand_refused ready code (pollWriteBody_node named bad) nofun
    case index =>
      exact fun low high beyond => execCommand_refused ready code (pollWriteBody_index named low high beyond) nofun
    case held =>
      exact fun low high index double =>
        execCommand_refused ready code (pollWriteBody_held named low high index (held.mp double)) nofun
    case full =>
      exact fun low high append full single =>
        execCommand_refused ready code (pollWriteBody_full named low high (single ∘ held.mpr) append full) nofun
    case replaces =>
      exact fun low high index single => execCommand_ok ready code
        (pollWriteBody_replaces named low high (single ∘ held.mpr) index) rfl ready.running
    case appends =>
      exact fun low high append room single => execCommand_ok ready code
        (pollWriteBody_appends named low high (single ∘ held.mpr) append room) rfl ready.running
    case absent => exact fun beyond => execCommand_refused ready code (pollRemoveBody_index named beyond) nofun
    case removes =>
      exact fun index => execCommand_ok ready code (pollRemoveBody_removes named index) rfl ready.running

/-! ## Commands of the notice unit -/

theorem execNoticeCommand_refused {code : Byte} (ready : Ready s c) (coded : c.code = code)
    (own : body c s = (s, r)) (status : r.status ≠ .ok) :
    ∃ t, execNoticeCommand code body s = .next t ∧ Follows (emissionTest (s.replied c r)) t := by
  rw [← complete_refused ready own status]
  exact execNoticeCommand_completes ready.up ready.current coded

theorem execNoticeCommand_ok {code : Byte} (ready : Ready s c) (coded : c.code = code) (own : body c s = (u, r))
    (status : r.status = .ok) (running : u.agent.state ≠ .restartPending) :
    ∃ t, execNoticeCommand code body s = .next t ∧ Follows (emissionTest (u.answeredOk c r)) t := by
  rw [← complete_ok ready own status running]
  exact execNoticeCommand_completes ready.up ready.current coded

theorem withdrawIfEnded_agent (s : State) : (withdrawIfEnded s).agent = s.agent := by
  rcases withdrawIfEnded_cases s with e | e
  · rw [e]
  · rw [e]; rfl

/-! ## NOTICE-SET (R160) -/

/-- The first operand that fails, by the bits of the change set. -/
theorem noticeSetFailure_eq (ops : List Byte) : noticeSetFailure ops =
    if ¬ ((byteAt ops 0).getLsbD 0 = true → wordAt ops 1 ≠ 0xFFFF#16) then some 2
    else if ¬ ((byteAt ops 0).getLsbD 2 = true → 100 ≤ (wordAt ops 4).toNat ∧ (wordAt ops 4).toNat ≤ 5000) then
      some 4
    else none := by
  have named (n : Nat) : names ((byteAt ops 0).setWidth 16) n = (byteAt ops 0).getLsbD n := names_relayChanges ops n
  simp only [noticeSetFailure, named, Classical.not_imp, not_ne_iff]

theorem NoticeUnit.changed_eq (x : NoticeUnit) (ops : List Byte) : x.changed ops =
    { x with
      address := if (byteAt ops 0).getLsbD 0 then wordAt ops 1 else x.address
      mask := if (byteAt ops 0).getLsbD 1 then byteAt ops 3 else x.mask
      interval := if (byteAt ops 0).getLsbD 2 then (wordAt ops 4).toNat else x.interval } := by
  have named (n : Nat) : names ((byteAt ops 0).setWidth 16) n = (byteAt ops 0).getLsbD n := names_relayChanges ops n
  simp only [NoticeUnit.changed, named]

theorem noticeSetBody_of_failure (fails : noticeSetFailure c.ops = some n) :
    noticeSetBody c s = (s, Reply.operand n) := by
  simp only [noticeSetBody, fails]

theorem noticeSetBody_of_passes (passes : noticeSetFailure c.ops = none) :
    noticeSetBody c s = (withdrawIfEnded { s with notice := s.notice.changed c.ops }, Reply.ok []) := by
  simp only [noticeSetBody, passes]
  rfl

/-! ## NOTICE-ACK (R169) -/

theorem get_recordsAcked_unlisted {listed : List (NoticeKind × BitVec 8)} {q : NoticeKind}
    (unlisted : ∀ p ∈ listed, p.1 ≠ q) (records : Vector NoticeRecord 8) :
    (recordsAcked listed records).get q.code = records.get q.code := by
  induction listed generalizing records with
  | nil => rfl
  | cons p rest ih =>
    obtain ⟨ne, others⟩ := List.forall_mem_cons.mp unlisted
    exact (ih others _).trans ((get_ackedRecord ..).trans (if_neg ne.symm))

theorem get_recordsAcked_listed {listed : List (NoticeKind × BitVec 8)} {p : NoticeKind × BitVec 8}
    (distinct : (listed.map Prod.fst).Nodup) (member : p ∈ listed) (records : Vector NoticeRecord 8) :
    (recordsAcked listed records).get p.1.code = NoticeRecord.acked p.2 (records.get p.1.code) := by
  induction listed generalizing records with
  | nil => cases member
  | cons q rest ih =>
    obtain ⟨fresh, distinct⟩ := List.nodup_cons.mp distinct
    rcases List.mem_cons.mp member with rfl | later
    · have once : ∀ x ∈ rest, x.1 ≠ p.1 := fun x mem e => fresh (e ▸ List.mem_map_of_mem mem)
      exact (get_recordsAcked_unlisted once _).trans ((get_ackedRecord ..).trans (if_pos rfl))
    · have ne : p.1 ≠ q.1 := fun e => fresh (e ▸ List.mem_map_of_mem later)
      refine (ih distinct later _).trans (congrArg (NoticeRecord.acked p.2) ?_)
      exact (get_ackedRecord ..).trans (if_neg ne)

/-- A record with a count left after the subtraction was pending before it. -/
theorem NoticeRecord.acked_eq {x : NoticeRecord} {m : BitVec 8} (counted : x.pending = true ↔ x.count ≠ 0#8)
    (within : m ≤ x.count) : NoticeRecord.acked m x =
      { pending := decide (x.count - m ≠ 0#8), count := x.count - m, line := x.line, value := x.value } := by
  have pending : (x.pending && decide (x.count - m ≠ 0#8)) = decide (x.count - m ≠ 0#8) := by
    rw [Bool.and_eq_right_iff_imp, decide_eq_true_eq, counted]
    intro left zero
    rw [zero] at within left
    bv_omega
  rw [NoticeRecord.acked, pending]

theorem noticeAckBody_beyond (beyond : 15 < (byteAt c.ops 0).toNat) : noticeAckBody c s = (s, Reply.operand 1) :=
  if_pos beyond

theorem noticeAckBody_stale (within : (byteAt c.ops 0).toNat ≤ 15)
    (other : (byteAt c.ops 0).toNat ≠ s.notice.seq.toNat) : noticeAckBody c s = (s, Reply.refusal .stale 0#8) :=
  (if_neg (not_lt.mpr within)).trans (if_pos other)

theorem noticeAckBody_accepted (same : (byteAt c.ops 0).toNat = s.notice.seq.toNat) :
    noticeAckBody c s = (withdrawIfEnded { s with notice := { s.notice with
      records := recordsAcked s.notice.listed s.notice.records, listed := [], state := .idle, timer := none } },
      Reply.ok []) := by
  have within : ¬ 15 < (byteAt c.ops 0).toNat := by
    have := s.notice.seq.isLt
    omega
  exact (if_neg within).trans (if_neg (not_not.mpr same))

/-- Settles O58: the tests of the two bodies, and the records of an acknowledgement kind by kind. -/
theorem noticeSettingsAndAcks : Obligations.NoticeSettingsAndAcks := by
  refine ⟨fun s c ready code => ?set, fun s c ready code consistent => ?ack⟩
  case set =>
    intro o named ok2 ok4 refused
    have tests := noticeSetFailure_eq c.ops
    have past2 (h2 : ok2) := tests.trans (if_neg (not_not.mpr h2))
    refine ⟨fun h2 => ?address, fun h2 h4 => ?interval, fun h2 h4 => ?written⟩
    case address =>
      have own := noticeSetBody_of_failure (s := s) (tests.trans (if_pos h2))
      exact execNoticeCommand_refused ready code own nofun
    case interval =>
      have own := noticeSetBody_of_failure (s := s) ((past2 h2).trans (if_pos h4))
      exact execNoticeCommand_refused ready code own nofun
    case written =>
      have own := noticeSetBody_of_passes (s := s) ((past2 h2).trans (if_neg (not_not.mpr h4)))
      rw [NoticeUnit.changed_eq] at own
      exact execNoticeCommand_ok ready code own rfl (by rw [withdrawIfEnded_agent]; exact ready.running)
  case ack =>
    intro q
    obtain ⟨-, -, counted, distinct, within⟩ := consistent
    refine ⟨fun beyond => ?_, fun low other => ?_, fun same => ?_⟩
    · exact execNoticeCommand_refused ready code (noticeAckBody_beyond beyond) nofun
    · exact execNoticeCommand_refused ready code (noticeAckBody_stale low other) nofun
    · have listed (p) (member : p ∈ s.notice.listed) :=
        (get_recordsAcked_listed distinct member s.notice.records).trans
          (NoticeRecord.acked_eq (counted p.1) (within p member))
      obtain ⟨t, row⟩ := execNoticeCommand_ok ready code (noticeAckBody_accepted same) rfl
        (by rw [withdrawIfEnded_agent]; exact ready.running)
      exact ⟨_, t, listed, fun k unlisted => get_recordsAcked_unlisted unlisted _, row⟩

end Sys2Proof.Machine
end


section
/-! PROOFS. RESTART is answered first: what becomes of its reply, and the warm restart that follows. -/

namespace Sys2Proof.Machine

variable {s t u : State} {c : Cmd} {r : Reply} {body : Body} {k j : Line} {i : SlotIx}

/-! ## The reply on its way -/

theorem State.current_of_command (current : s.command = some c) : s.agent.current = some c.slot := by
  unfold State.command at current
  split at current
  · next i _ held => cases current; exact held
  · cases current

/-- The state in which the reply to `c` stands built, to be offered to its arrival line. -/
def State.built (s : State) (c : Cmd) (r : Reply) : State :=
  s.modFrame c.slot fun f =>
    { dest := f.src, src := s.route.relayAddr, kind := .mreply, confirm := false, seq := f.seq
      len := 4 + r.results.length, payload := [c.code, c.tag, r.status.code, r.detail] ++ r.results }

theorem buildReply_eq : buildReply c r.bytes s = s.built c r := by
  have length : (c.code :: c.tag :: r.bytes).length = 4 + r.results.length := Nat.add_comm _ 4
  unfold State.built
  rw [← length]
  rfl

@[simp] theorem State.built_agent : (s.built c r).agent = s.agent := State.modFrame_agent ..

theorem State.built_line : (s.built c r).line k = s.line k := rfl

theorem State.built_arrival (i : SlotIx) : ((s.built c r).slot i).arrival = (s.slot i).arrival := by
  unfold State.built State.modFrame
  rw [State.slot_modSlot]
  split
  · next e => rw [e]
  · rfl

/-- What recording an answer leaves of the agent and of the rest of the state (R142, R143). -/
theorem State.recorded_rest : (s.recorded c r).lines = s.lines ∧ (s.recorded c r).slots = s.slots ∧
    (s.recorded c r).agent.current = s.agent.current ∧ (s.recorded c r).agent.state = s.agent.state ∧
    (s.recorded c r).agent.restartReply = s.agent.restartReply := by
  unfold State.recorded
  split <;> exact ⟨rfl, rfl, rfl, rfl, rfl⟩

theorem recordReply_eq (ok : r.status = .ok) : recordReply c r s = s.recorded c r := by
  simp [recordReply, State.recorded, ok, startLease, Reply.bytes, State.modAgent]

/-- A ready command answered OK, and the restart that may be due at once. -/
theorem complete_answers (ready : Ready s c) (own : body c s = (u, r)) (ok : r.status = .ok) :
    complete body c s = restartIfDue (u.answeredOk c r) := by
  unfold complete
  rw [ready.fresh]
  simp only [ready.decide, own, recordReply_eq ok, buildReply_eq]
  rfl

/-! ## RESTART (R145, R162) -/

/-- The state of a RESTART under way: its reply is about to be sent. -/
def State.restarting (s : State) (i : SlotIx) : State :=
  { s with agent := { s.agent with state := .restartPending, restartReply := some i } }

theorem State.restarting_offer (current : s.agent.current = some c.slot) :
    ((((s.restarting c.slot).recorded c r).built c r).agent.current = some c.slot ∧
      (((s.restarting c.slot).recorded c r).built c r).agent.state = .restartPending ∧
      (((s.restarting c.slot).recorded c r).built c r).agent.restartReply = some c.slot) ∧
    (∀ i, ((((s.restarting c.slot).recorded c r).built c r).slot i).arrival = (s.slot i).arrival) ∧
    ∀ j, (((s.restarting c.slot).recorded c r).built c r).line j = s.line j := by
  obtain ⟨lines, slots, held, state, reply⟩ := State.recorded_rest (s := s.restarting c.slot) (c := c) (r := r)
  refine ⟨?_, fun i => ?_, fun j => ?_⟩
  · rw [State.built_agent, held, state, reply]
    exact ⟨current, rfl, rfl⟩
  · rw [State.built_arrival]
    exact congrArg Slot.arrival (State.slot_of_slots slots i)
  · rw [State.built_line]
    exact congrArg (Vector.get · j) lines

theorem restartIfDue_of_due (due : s.agent.restartDue = true) : restartIfDue s = warmRestart s := if_pos due

theorem restart_goes_on (ready : Ready s c) (code : c.code = 0x16#8) (arrival : (s.slot c.slot).arrival = some j)
    (active : (s.line j).state = .active) : ∃ t, exec .restart s = .next t ∧
      Follows ((s.restarting c.slot).answeredOk c (Reply.ok [])) t := by
  obtain ⟨⟨held, -, reply⟩, arrivals, lines⟩ := State.restarting_offer
    (r := Reply.ok []) (State.current_of_command ready.current)
  have kept := (offerReply_restartReply held ((arrivals _).trans arrival) (by rw [lines]; exact active)).trans reply
  have row := execCommand_completes (body := restartBody) ready.up ready.current code
  rw [complete_answers (u := s.restarting c.slot) ready rfl rfl] at row
  have same := restartIfDue_of_reply (s := (s.restarting c.slot).answeredOk c (Reply.ok [])) kept
  rw [same] at row
  exact row

theorem restart_at_once (ready : Ready s c) (code : c.code = 0x16#8) (arrival : (s.slot c.slot).arrival = some j)
    (down : (s.line j).state ≠ .active) : ∃ t, exec .restart s = .next t ∧
      Follows (warmRestart ((s.restarting c.slot).answeredOk c (Reply.ok []))) t := by
  obtain ⟨⟨held, pending, reply⟩, arrivals, lines⟩ := State.restarting_offer
    (r := Reply.ok []) (State.current_of_command ready.current)
  have released : (s.restarting c.slot).answeredOk c (Reply.ok []) =
      releaseReply c.slot (((s.restarting c.slot).recorded c (Reply.ok [])).built c (Reply.ok [])) := by
    refine offerReply_released held fun j' e => ?_
    cases e.symm.trans ((arrivals _).trans arrival)
    exact fun active => down ((congrArg LineRec.state (lines _)).symm.trans active)
  have due : ((s.restarting c.slot).answeredOk c
      (Reply.ok [])).agent.restartDue = true := by
    rw [released]
    exact restartDue_of_released pending reply
  have row := execCommand_completes (body := restartBody) ready.up ready.current code
  rw [complete_answers (u := s.restarting c.slot) ready rfl rfl, restartIfDue_of_due due] at row
  exact row

/-! ## The reply sent -/

theorem noteReplyGone_agent (reply : s.agent.restartReply = some i) :
    (noteReplyGone i s).agent = { s.agent with restartReply := none } := by
  unfold noteReplyGone
  rw [if_pos reply]
  rfl

/-- Line `k` once its transmission is counted and its transmit position empty. -/
def State.transmitted (s : State) (k : Line) : State :=
  (countLine k .txSent s).modLine k fun l => { l with tp := none }

theorem State.transmitted_agent : (s.transmitted k).agent = s.agent := countLine_agent ..

theorem State.transmitted_globals : (s.transmitted k).globals = s.globals :=
  (countLine_steady k .txSent s).globals

theorem State.transmitted_port (j : Line) : (s.transmitted k).port j = s.port j :=
  (State.port_modLine_of_keeps _ j k (fun l => { l with tp := none }) fun _ => rfl).trans
    (((countLine_steady k .txSent s).port j).trans (port_bumpLine s j k .txSent))

theorem completeTx_urgent : completeTx k (.urgent i) s = releaseRef i (noteReplyGone i (s.transmitted k)) := by
  simp only [completeTx, disposeTx, State.transmitted]

theorem completeTx_urgent_agent (reply : s.agent.restartReply = some i) :
    (completeTx k (.urgent i) s).agent = { s.agent with restartReply := none } := by
  have kept : (s.transmitted k).agent.restartReply = some i := by rw [State.transmitted_agent, reply]
  rw [completeTx_urgent, releaseRef_agent, noteReplyGone_agent kept, State.transmitted_agent]

theorem noteReplyGone_globals : (noteReplyGone i s).globals = s.globals := by
  unfold noteReplyGone
  split <;> rfl

theorem noteReplyGone_port (j : Line) : (noteReplyGone i s).port j = s.port j := by
  unfold noteReplyGone
  split <;> rfl

theorem completeTx_urgent_globals : (completeTx k (.urgent i) s).globals = s.globals := by
  rw [completeTx_urgent, (releaseRef_steady _ _).globals, noteReplyGone_globals, State.transmitted_globals]

theorem completeTx_urgent_port (j : Line) : (completeTx k (.urgent i) s).port j = s.port j := by
  rw [completeTx_urgent, (releaseRef_steady _ _).port, noteReplyGone_port, State.transmitted_port]

theorem restart_after_reply (up : s.rstnLow = false) (active : (s.line k).state = .active)
    (tp : (s.line k).tp = some (.urgent i)) (pending : s.agent.state = .restartPending)
    (reply : s.agent.restartReply = some i) : ∃ u t : State, exec (.transmitCompletion k) s = .next t ∧
      Follows (warmRestart u) t ∧ u.agent.restartReply = none ∧ u.globals = s.globals ∧ ∀ j, u.port j = s.port j := by
  have agent := completeTx_urgent_agent (k := k) reply
  have due : (completeTx k (.urgent i) s).agent.restartDue = true := by
    rw [agent]
    simp [Agent.restartDue, pending]
  have done : transmitDone k s = warmRestart (completeTx k (.urgent i) s) := by
    simp only [transmitDone, tp]
    exact if_pos due
  obtain ⟨t, next, follows⟩ := answers_of (exec_transmitCompletion s k) up (by simp [active, tp]) done
  exact ⟨_, t, next, follows, congrArg Agent.restartReply agent, completeTx_urgent_globals, completeTx_urgent_port⟩

/-- Settles O51: the reply of an ACTIVE line is on its way, that of another line is released and the restart due. -/
theorem restartFollowsItsReply : Obligations.RestartFollowsItsReply := by
  refine ⟨fun s c j ready code arrival active => restart_goes_on ready code arrival active,
    fun s c j ready code arrival down => restart_at_once ready code arrival down, fun s up pending gone => ?_,
    fun s k i up active tp pending reply => restart_after_reply up active tp pending reply⟩
  exact answers_of (exec_warmRestart s) up (by simp [Agent.restartDue, pending, gone]) rfl

end Sys2Proof.Machine
end


section
/-! PROOFS. What a flush leaves: the agent's pending reply, at most one NOTICE, and the RETURNs in the normal queue. -/

namespace Sys2Proof.Machine

variable {a s t u : State} {i r : SlotIx} {j k : Line} {c : Cmd}

/-! ## The reply that a pending restart waits for -/

/-- The agent after the loss of references: a slot among `lost` no longer holds the awaited reply, and only the loss
of a slot among `refs` can have taken it. -/
structure AgentLoses (refs lost : List SlotIx) (a b : Agent) : Prop where
  same : b = { a with restartReply := b.restartReply }
  reply : b.restartReply = a.restartReply ∨ b.restartReply = none
  kept : (∀ r ∈ refs, a.restartReply ≠ some r) → b.restartReply = a.restartReply
  lost : ∀ r ∈ lost, b.restartReply ≠ some r

theorem AgentLoses.refl (refs : List SlotIx) (a : Agent) : AgentLoses refs [] a a :=
  ⟨rfl, .inl rfl, fun _ => rfl, nofun⟩

theorem AgentLoses.trans {refs refs' lost lost' : List SlotIx} {a b c : Agent} (h : AgentLoses refs lost a b)
    (g : AgentLoses refs' lost' b c) : AgentLoses (refs ++ refs') (lost ++ lost') a c where
  same := g.same.trans (congrArg (fun x : Agent => { x with restartReply := c.restartReply }) h.same)
  reply := by
    rcases g.reply with e | e
    · rw [e]; exact h.reply
    · exact .inr e
  kept others := by
    have first := h.kept fun r member => others r (List.mem_append_left _ member)
    exact (g.kept fun r member => first ▸ others r (List.mem_append_right _ member)).trans first
  lost r member := by
    rcases List.mem_append.mp member with early | late
    · rcases g.reply with e | e
      · rw [e]; exact h.lost r early
      · rw [e]; nofun
    · exact g.lost r late

theorem AgentLoses.mono {refs refs' lost lost' : List SlotIx} {a b : Agent} (h : AgentLoses refs lost a b)
    (wider : refs ⊆ refs') (fewer : lost' ⊆ lost) : AgentLoses refs' lost' a b :=
  ⟨h.same, h.reply, fun others => h.kept fun r member => others r (wider member),
    fun r member => h.lost r (fewer member)⟩

theorem agentLoses_flushDrop (i : SlotIx) (s : State) : AgentLoses [i] [i] s.agent (flushDrop s i).agent := by
  rw [flushDrop, dropRef_agent]
  by_cases held : s.agent.restartReply = some i
  · rw [noteReplyGone_agent held]
    exact ⟨rfl, .inr rfl, fun others => absurd held (others i (List.mem_singleton_self i)), nofun⟩
  · rw [noteReplyGone, if_neg held]
    exact ⟨rfl, .inl rfl, fun _ => rfl, fun r member => by rw [List.mem_singleton.mp member]; exact held⟩

theorem agentLoses_flushRef (acc : State × List SlotIx) (i : SlotIx) :
    AgentLoses [i] [] acc.1.agent (flushRef acc i).1.agent := by
  unfold flushRef
  split
  · exact .refl [i] _
  · exact (agentLoses_flushDrop i acc.1).mono (List.Subset.refl _) (List.nil_subset _)

theorem agentLoses_flushDrops (is : List SlotIx) (s : State) :
    AgentLoses is is s.agent (is.foldl flushDrop s).agent := by
  induction is generalizing s with
  | nil => exact .refl [] _
  | cons i is ih => exact (agentLoses_flushDrop i s).trans (ih (flushDrop s i))

theorem agentLoses_flushRefs (is : List SlotIx) (acc : State × List SlotIx) :
    AgentLoses is [] acc.1.agent (is.foldl flushRef acc).1.agent := by
  induction is generalizing acc with
  | nil => exact .refl [] _
  | cons i is ih => exact (agentLoses_flushRef acc i).trans (ih (flushRef acc i))

theorem agentLoses_flushTp (tp : Option TxItem) (s : State) :
    AgentLoses (tp.bind TxItem.slot?).toList (TxItem.otherSlots tp) s.agent (flushTp tp s).1.agent := by
  match tp with
  | none => exact .refl [] _
  | some (.conf _) => exact .refl [] _
  | some (.poll _) => exact .refl [] _
  | some (.urgent i) => exact agentLoses_flushDrop i s
  | some (.normal i) => exact agentLoses_flushRef (s, []) i
  | some (.resend i) => exact agentLoses_flushDrop i s

theorem agentLoses_flushAwait (x : Await) (acc : State × List SlotIx) :
    AgentLoses [] [] acc.1.agent (flushAwait x acc).1.agent := by
  unfold flushAwait
  split <;> exact .refl [] _

/-- A flush loses the references of the line's places (R86, R145). -/
theorem agentLoses_flushFrames (l : LineRec) (s : State) :
    AgentLoses l.refs (TxItem.otherSlots l.tp ++ l.urgentQ) s.agent (flushFrames l s).1.agent := by
  have tp := agentLoses_flushTp l.tp s
  have await := tp.trans (agentLoses_flushAwait l.await (flushTp l.tp s))
  have normal := await.trans (agentLoses_flushRefs l.normalQ (flushAwait l.await (flushTp l.tp s)))
  refine (normal.trans (agentLoses_flushDrops l.urgentQ _)).mono (fun r => ?_) (fun r => ?_)
  · simp only [LineRec.refs, List.mem_append, List.not_mem_nil]
    tauto
  · simp only [List.mem_append, List.not_mem_nil]
    tauto

theorem agentLoses_flushLine (k : Line) (p : Bool) (s : State) :
    AgentLoses (s.line k).refs (TxItem.otherSlots (s.line k).tp ++ (s.line k).urgentQ) s.agent
      (flushLine k p s).agent := by
  have routed (is : List SlotIx) (u : State) : (is.foldl (fun s i => routeReturn i s) u).agent = u.agent :=
    foldl_keeps State.agent (fun s i => routeReturn_agent i s) is u
  have frames := agentLoses_flushFrames (s.line k) (s.modLine k (LineRec.emptied p))
  unfold flushLine
  dsimp only
  rw [evaluatePool_agent, poolService_agent, routed]
  exact frames

/-! ## At most one NOTICE -/

/-- No emission can come any more: the unit is OUTSTANDING and no request waits (R166, R168). -/
def Spent (s : State) : Prop := s.notice.state = .outstanding ∧ s.pool.noticeWaiting = false

/-- Between two states of an event at most one NOTICE was built, and line `k`'s urgent queue changed by it alone. -/
def OneNotice (k : Line) (s t : State) : Prop :=
  t.notice.seq = s.notice.seq ∧ (t.line k).urgentQ = (s.line k).urgentQ ∧ (Spent s → Spent t) ∨
    ¬ Spent s ∧ Spent t ∧ t.notice.seq = s.notice.seq + 1#4 ∧
      (t.line k).urgentQ.length ≤ (s.line k).urgentQ.length + 1

theorem OneNotice.of_eq (seq : t.notice.seq = s.notice.seq) (state : t.notice.state = s.notice.state)
    (waiting : t.pool.noticeWaiting = s.pool.noticeWaiting) (urgentQ : (t.line k).urgentQ = (s.line k).urgentQ) :
    OneNotice k s t := .inl ⟨seq, urgentQ, fun spent => ⟨state.trans spent.1, waiting.trans spent.2⟩⟩

theorem OneNotice.refl (k : Line) (s : State) : OneNotice k s s := .of_eq rfl rfl rfl rfl

theorem OneNotice.trans (h : OneNotice k s t) (g : OneNotice k t u) : OneNotice k s u := by
  rcases h with ⟨seq, urgentQ, spent⟩ | ⟨fresh, done, seq, urgentQ⟩
  · rcases g with ⟨seq', urgentQ', spent'⟩ | ⟨fresh', done', seq', urgentQ'⟩
    · exact .inl ⟨seq'.trans seq, urgentQ'.trans urgentQ, spent' ∘ spent⟩
    · exact .inr ⟨fresh' ∘ spent, done', seq ▸ seq', urgentQ ▸ urgentQ'⟩
  · rcases g with ⟨seq', urgentQ', spent'⟩ | ⟨fresh', -⟩
    · exact .inr ⟨fresh, spent' done, seq'.trans seq, urgentQ' ▸ urgentQ⟩
    · exact absurd done fresh'

theorem OneNotice.foldl {α : Type} {f : State → α → State} (step : ∀ s x, OneNotice k s (f s x)) (l : List α)
    (s : State) : OneNotice k s (l.foldl f s) := by
  induction l generalizing s with
  | nil => exact .refl k s
  | cons x l ih => exact (step s x).trans (ih (f s x))

theorem oneNotice_modLine (f : LineRec → LineRec) (keeps : ∀ l, (f l).urgentQ = l.urgentQ) :
    OneNotice k s (s.modLine j f) := by
  refine .of_eq rfl rfl rfl ?_
  rw [State.line_modLine]
  split
  · next e => rw [keeps, e]
  · rfl

theorem line_of_dropRef (i : SlotIx) (s : State) (k : Line) : (dropRef i s).line k = s.line k :=
  State.line_of_lines (dropRef_lines i s)

theorem oneNotice_dropRef (i : SlotIx) (s : State) : OneNotice k s (dropRef i s) :=
  .of_eq (by rw [dropRef_notice]) (by rw [dropRef_notice]) (dropRef_noticeWaiting i s) (by rw [line_of_dropRef])

/-- A NOTICE handed to the route unit joins at most one urgent queue. -/
theorem length_urgentQ_routeNotice (i : SlotIx) (s : State) (k : Line) :
    ((routeNotice i s).line k).urgentQ.length ≤ (s.line k).urgentQ.length + 1 := by
  have counted (c : RelayCounter) : (dropRef i (countRelayInEmission c s)).line k = s.line k := by
    rw [line_of_dropRef]; exact State.line_of_lines (countRelayInEmission_lines c s)
  cases decided : decideRelay s.route (s.frame i).dest with
  | forward j d =>
    rw [routeNotice_forward decided]
    split
    · rw [State.line_setLine]
      split
      · next e => rw [e, List.length_append, List.length_singleton]
      · exact Nat.le_succ _
    · rw [line_of_dropRef]; exact Nat.le_succ _
  | discard => rw [routeNotice_discard decided, counted]; exact Nat.le_succ _
  | unrouted => rw [routeNotice_unrouted decided, counted]; exact Nat.le_succ _

theorem oneNotice_emitNotice (ready : ¬ Spent s) (k : Line) : OneNotice k s (emitNotice s) := by
  rcases free : s.pool.free with _ | ⟨i, rest⟩
  · rw [emitNotice_of_none free]; exact .refl k s
  · obtain ⟨seq, state, -⟩ := emitNotice_unit (s := s) (by rw [free]; exact List.cons_ne_nil i rest)
    refine .inr ⟨ready, ⟨state, ?_⟩, seq, ?_⟩
    · rw [emitNotice_of_free free, State.modNotice_pool, routeNotice_noticeWaiting]; rfl
    · rw [emitNotice_of_free free]
      exact length_urgentQ_routeNotice i (s.noticeBuilt i rest) k

theorem oneNotice_emissionTest (k : Line) (s : State) : OneNotice k s (emissionTest s) := by
  unfold emissionTest
  split
  · next emits =>
    have ready : ¬ Spent s := fun spent => absurd (s.notice.emits_iff.mp emits).1 (by rw [spent.1]; nofun)
    split
    · exact .refl k s
    · split
      · exact .inl ⟨rfl, rfl, fun spent => absurd spent ready⟩
      · exact oneNotice_emitNotice ready k
  · exact .inl ⟨rfl, rfl, fun spent => ⟨spent.1, rfl⟩⟩

theorem oneNotice_noteEvent {q : NoticeKind} {l : Option Line} {v : Option Addr} (k : Line) (s : State) :
    OneNotice k s (noteEvent q l v s) :=
  (OneNotice.of_eq rfl rfl rfl rfl : OneNotice k s (recordEvent q l v s)).trans (oneNotice_emissionTest k _)

theorem oneNotice_countLine (j : Line) (x : LineCounter) (s : State) : OneNotice k s (countLine j x s) := by
  have bumped : OneNotice k s (s.bumpLine j x) := oneNotice_modLine _ fun _ => rfl
  unfold countLine
  dsimp only
  split
  · exact bumped.trans (oneNotice_noteEvent k _)
  · exact bumped

theorem oneNotice_countRelay (x : RelayCounter) (s : State) : OneNotice k s (countRelay x s) := by
  have bumped : OneNotice k s (s.bumpRelay x) := .of_eq rfl rfl rfl rfl
  unfold countRelay
  dsimp only
  split
  · exact bumped.trans (oneNotice_noteEvent k _)
  · exact bumped

theorem oneNotice_routeReturn (i : SlotIx) (s : State) : OneNotice k s (routeReturn i s) := by
  cases decided : decideRelay s.route (s.frame i).dest with
  | forward j d =>
    have rewritten : OneNotice k s (s.modFrame i fun f => { f with dest := d }) := .of_eq rfl rfl rfl rfl
    rw [routeReturn_forward decided]
    split
    · exact rewritten.trans (oneNotice_modLine (j := j) (fun l => { l with normalQ := l.normalQ ++ [i] }) fun _ => rfl)
    · exact rewritten.trans ((oneNotice_countLine j _ _).trans (oneNotice_dropRef i _))
  | discard =>
    rw [routeReturn_discard decided]
    exact (oneNotice_countRelay _ s).trans (oneNotice_dropRef i _)
  | unrouted =>
    rw [routeReturn_unrouted decided]
    exact (oneNotice_countRelay _ s).trans ((oneNotice_noteEvent k _).trans (oneNotice_dropRef i _))

theorem oneNotice_grantOne (k : Line) (s : State) : OneNotice k s (grantOne s) := by
  unfold grantOne
  split
  · split
    · next j _ =>
      unfold grantTo
      split
      · exact .refl k s
      · next i t taken =>
        rcases free : s.pool.free with _ | ⟨m, rest⟩
        · rw [allocate, free] at taken; cases taken
        · rw [allocate_of_free free] at taken
          cases taken
          exact (OneNotice.of_eq rfl rfl rfl rfl).trans
            (oneNotice_modLine (j := j) (fun l => { l with reservation := some i }) fun _ => rfl)
    · exact .refl k s
  · exact .refl k s

theorem oneNotice_poolService (k : Line) (s : State) : OneNotice k s (poolService s) := by
  have served : OneNotice k s (serveNotice s) := by
    unfold serveNotice
    split
    · next waiting =>
      exact oneNotice_emitNotice (fun spent => absurd (waiting.1.symm.trans spent.2) (by decide)) k
    · exact .refl k s
  exact served.trans (OneNotice.foldl (fun s _ => oneNotice_grantOne k s) _ _)

theorem oneNotice_evaluatePool (k : Line) (s : State) : OneNotice k s (evaluatePool s) := by
  have evaluated : OneNotice k s (s.modPool fun p => { p with state := p.evaluated }) := .of_eq rfl rfl rfl rfl
  unfold evaluatePool
  dsimp only
  split
  · exact evaluated.trans (oneNotice_noteEvent k _)
  · exact evaluated

/-! ## The RETURNs of a flush in a normal queue -/

/-- A RETURN handed to the route unit joins at most one normal queue. -/
theorem normalQ_routeReturn (i : SlotIx) (s : State) (k : Line) :
    ((routeReturn i s).line k).normalQ = (s.line k).normalQ ∨
      ((routeReturn i s).line k).normalQ = (s.line k).normalQ ++ [i] := by
  cases decided : decideRelay s.route (s.frame i).dest with
  | forward j d =>
    rw [routeReturn_forward decided]
    split
    · rw [State.line_setLine]
      split
      · next e => rw [e]; exact .inr rfl
      · exact .inl rfl
    · rw [line_of_dropRef]
      exact .inl ((countLine_lighter j _ _).queue k)
  | discard =>
    rw [routeReturn_discard decided, line_of_dropRef]
    exact .inl ((countRelay_lighter _ s).queue k)
  | unrouted =>
    rw [routeReturn_unrouted decided, line_of_dropRef]
    exact .inl (((noteEvent_lighter _ _ _ _).queue k).trans ((countRelay_lighter _ s).queue k))

theorem normalQ_routeReturns (is : List SlotIx) (s : State) (k : Line) : ∃ joined : List SlotIx,
    joined.Sublist is ∧
      ((is.foldl (fun s i => routeReturn i s) s).line k).normalQ = (s.line k).normalQ ++ joined := by
  induction is generalizing s with
  | nil => exact ⟨[], List.Sublist.refl [], (List.append_nil _).symm⟩
  | cons i is ih =>
    obtain ⟨joined, sub, e⟩ := ih (routeReturn i s)
    rw [List.foldl_cons, e]
    rcases normalQ_routeReturn i s k with same | joins
    · exact ⟨joined, sub.cons i, by rw [same]⟩
    · exact ⟨i :: joined, sub.cons_cons i, by rw [joins, List.append_assoc]; rfl⟩

theorem normalQ_evaluatePool (s : State) (k : Line) : ((evaluatePool s).line k).normalQ = (s.line k).normalQ := by
  unfold evaluatePool
  dsimp only
  split
  · exact (noteEvent_lighter _ _ _ _).queue k
  · rfl

/-! ## The whole flush -/

theorem flushDrop_notice (s : State) (i : SlotIx) : (flushDrop s i).notice = s.notice := by
  rw [flushDrop, dropRef_notice, noteReplyGone]
  split <;> rfl

theorem flushRef_notice (acc : State × List SlotIx) (i : SlotIx) : (flushRef acc i).1.notice = acc.1.notice := by
  unfold flushRef
  split
  · rfl
  · exact flushDrop_notice _ _

theorem flushTp_notice (tp : Option TxItem) (s : State) : (flushTp tp s).1.notice = s.notice := by
  match tp with
  | none => rfl
  | some (.conf _) => rfl
  | some (.poll _) => rfl
  | some (.urgent i) => exact flushDrop_notice s i
  | some (.normal i) => exact flushRef_notice (s, []) i
  | some (.resend i) => exact flushDrop_notice s i

theorem flushAwait_notice (x : Await) (acc : State × List SlotIx) : (flushAwait x acc).1.notice = acc.1.notice := by
  unfold flushAwait
  split <;> rfl

/-- The frames of a flush concern slots and the agent, not the notice unit (R86). -/
theorem flushFrames_notice (l : LineRec) (s : State) : (flushFrames l s).1.notice = s.notice := by
  unfold flushFrames
  dsimp only
  rw [foldl_keeps State.notice flushDrop_notice,
    foldl_keeps (fun acc : State × List SlotIx => acc.1.notice) flushRef_notice, flushAwait_notice, flushTp_notice]

/-- The state in which a flush of line `k` has made its RETURNs and dropped the other references. -/
def State.flushed (s : State) (k : Line) (p : Bool) : State :=
  (flushFrames (s.line k) (s.modLine k (LineRec.emptied p))).1

/-- The RETURNs that a flush of line `k` makes, in their order. -/
def State.flushReturns (s : State) (k : Line) (p : Bool) : List SlotIx :=
  (flushFrames (s.line k) (s.modLine k (LineRec.emptied p))).2

theorem flushLine_eq (k : Line) (p : Bool) (s : State) : flushLine k p s =
    evaluatePool (poolService ((s.flushReturns k p).foldl (fun s i => routeReturn i s) (s.flushed k p))) := rfl

theorem State.flushed_line (j : Line) {p : Bool} :
    (s.flushed k p).line j = if j = k then (s.line j).emptied p else s.line j :=
  (State.line_of_lines (flushFrames_lines _ _)).trans (State.line_modLine s j k _)

theorem State.flushed_notice {p : Bool} : (s.flushed k p).notice = s.notice := flushFrames_notice _ _

theorem flushLine_steady (k : Line) (p : Bool) (s : State) : Steady (s.flushed k p) (flushLine k p s) := by
  rw [flushLine_eq]
  generalize s.flushed k p = u, s.flushReturns k p = is
  exact ((Steady.foldl _ (fun s i => routeReturn_steady i s) is u).trans (poolService_steady _)).trans
    (evaluatePool_steady _)

theorem flushLine_engine (k : Line) (p : Bool) (s : State) (j : Line) :
    (flushLine k p s).engine j = (s.flushed k p).engine j := by
  rw [flushLine_eq, evaluatePool_engine, poolService_engine]
  exact foldl_keeps (State.engine · j) (fun s i => routeReturn_engine j i s) _ _

theorem oneNotice_flushLine (k : Line) (p : Bool) (s : State) : OneNotice k (s.flushed k p) (flushLine k p s) := by
  rw [flushLine_eq]
  generalize s.flushed k p = u, s.flushReturns k p = is
  exact ((OneNotice.foldl (fun s i => oneNotice_routeReturn i s) is u).trans (oneNotice_poolService k _)).trans
    (oneNotice_evaluatePool k _)

/-- Of a flushed line the normal queue holds RETURNs of the flush alone (R85, R86). -/
theorem normalQ_flushLine (k : Line) (p : Bool) (s : State) :
    ((flushLine k p s).line k).normalQ.Sublist (s.flushReturns k p) := by
  obtain ⟨joined, sub, e⟩ := normalQ_routeReturns (s.flushReturns k p) (s.flushed k p) k
  have empty : ((s.flushed k p).line k).normalQ = [] := by
    rw [State.flushed_line, if_pos rfl, LineRec.emptied_eq]
  rw [flushLine_eq, normalQ_evaluatePool, (poolService_lighter _).queue, e, empty]
  exact sub

/-- Of a flushed line the urgent queue holds nothing, or the one NOTICE built in the flush (R85, R168). -/
theorem urgentQ_flushLine (k : Line) (p : Bool) (s : State) : ((flushLine k p s).line k).urgentQ.length ≤ 1 ∧
    ((flushLine k p s).notice.seq = s.notice.seq → ((flushLine k p s).line k).urgentQ = []) := by
  have empty : ((s.flushed k p).line k).urgentQ = [] := by
    rw [State.flushed_line, if_pos rfl, LineRec.emptied_eq]
  have notices := oneNotice_flushLine k p s
  unfold OneNotice at notices
  rw [State.flushed_notice, empty] at notices
  rcases notices with ⟨-, none, -⟩ | ⟨-, -, stepped, one⟩
  · rw [none]; exact ⟨Nat.zero_le 1, fun _ => rfl⟩
  · exact ⟨one, fun same => absurd (same.symm.trans stepped) (by bv_omega)⟩

end Sys2Proof.Machine
end


section
/-! PROOFS. LINE-RESET: the flushed line field by field. -/

namespace Sys2Proof.Machine

variable {s t u : State} {k j : Line} {c : Cmd}

/-! ## A flushed line -/

/-- Line record `l'` is `l` flushed: all of it but the queues, the reservation and the counters. -/
structure LineRec.FlushedTo (p : Bool) (l l' : LineRec) : Prop where
  config : l'.config = l.config
  state : l'.state = l.state
  phase : l'.rx.phase = if l.state = .active then .hunt else .stopped
  brk : l'.rx.brk = l.rx.brk
  gap : l'.rx.gap = none
  quiet : l'.rx.quiet = none
  inChar : l'.rx.inChar = l.rx.inChar
  turnaround : l'.turnaround = if l.tp.isSome = true ∧ l.config.mode = .polled then
    (if l.config.turnaround = 0 then none else some l.config.turnaround) else l.turnaround
  faultTimer : l'.faultTimer = l.faultTimer
  recovery : l'.recovery = l.recovery
  tp : l'.tp = none
  await : l'.await = .empty
  confirmTimer : l'.confirmTimer = none
  pendingConf : l'.pendingConf = []
  memo : l'.memo = []
  pollList : l'.pollList = if p then l.pollList.map PollEntry.reset else l.pollList
  pollPos : l'.pollPos = if p then 0 else l.pollPos
  cycle : l'.cycle = if p then 0#4 else l.cycle
  burst : l'.burst = if p then 0 else l.burst
  window : l'.window = .closed
  windowTimer : l'.windowTimer = none
  pauseTimer : l'.pauseTimer = none

theorem LineRec.FlushedTo.of_views {p : Bool} {l l' : LineRec} (port : l'.port = (l.emptied p).port)
    (engine : l'.engine = (l.emptied p).engine) : l.FlushedTo p l' := by
  rw [LineRec.emptied_eq] at port engine
  simp only [LineRec.port, LineRec.engine, PortView.mk.injEq, EngineView.mk.injEq] at port engine
  obtain ⟨config, state, -, phase, -, brk, gap, quiet, turnaround, faultTimer, recovery, confirmTimer, memo, pollList,
    window, windowTimer⟩ := port
  obtain ⟨tp, await, pendingConf, pollPos, cycle, burst, pauseTimer, inChar⟩ := engine
  exact ⟨config, state, phase, brk, gap, quiet, inChar, turnaround, faultTimer, recovery, tp, await, confirmTimer,
    pendingConf, memo, pollList, pollPos, cycle, burst, window, windowTimer, pauseTimer⟩

theorem flushedTo_flushLine (k : Line) (p : Bool) (s : State) : (s.line k).FlushedTo p ((flushLine k p s).line k) := by
  have line : (s.flushed k p).line k = (s.line k).emptied p := by rw [State.flushed_line, if_pos rfl]
  have port := (flushLine_steady k p s).port k
  have engine := flushLine_engine k p s k
  rw [State.port, State.port, line] at port
  rw [State.engine, State.engine, line] at engine
  exact .of_views port engine

theorem flushLine_port_ne {p : Bool} (ne : j ≠ k) : (flushLine k p s).port j = s.port j := by
  rw [(flushLine_steady k p s).port j, State.port, State.flushed_line, if_neg ne, State.port]

theorem flushLine_globals {p : Bool} : (flushLine k p s).globals = s.globals := (Calm.flushLine s).globals

theorem flushLine_counter {p : Bool} (d : LineCounter) (other : d ≠ .qRefused) (j : Line) :
    ((flushLine k p s).line j).counter d = (s.line j).counter d := by
  rw [(flushLine_steady k p s).counter j d other, State.flushed_line]
  split
  · rw [LineRec.emptied_eq]; rfl
  · rfl

theorem flushLine_record {p : Bool} (q : NoticeKind) (other : q.ofTraffic = false) :
    (flushLine k p s).notice.records.get q.code = s.notice.records.get q.code := by
  rw [(flushLine_steady k p s).record q other, State.flushed_notice]

theorem AgentLoses.state {refs lost : List SlotIx} {a b : Agent} (h : AgentLoses refs lost a b) : b.state = a.state :=
  (congrArg Agent.state h.same :)

theorem flushLine_agent_state {p : Bool} : (flushLine k p s).agent.state = s.agent.state :=
  (agentLoses_flushLine k p s).state

/-- A line that is not ACTIVE gets nothing in its queues back (R79, R80). -/
theorem queues_flushLine {p : Bool} (down : (s.line k).state ≠ .active) :
    ((flushLine k p s).line k).normalQ = [] ∧ ((flushLine k p s).line k).urgentQ = [] := by
  have line : (s.modLine k (LineRec.emptied p)).line k = (s.line k).emptied p := State.line_modLine_same s k _
  have calm := (Calm.flushLine (k := k) (p := p) s).line k
  rw [line, LineRec.emptied_eq] at calm
  obtain ⟨-, normalQ, urgentQ⟩ := calm.resting down
  exact ⟨normalQ, urgentQ⟩

theorem reservation_flushLine {p : Bool} (k : Line) (s : State) (settled : LineSet.has s.pool.waiters j = false) :
    ((flushLine k p s).line j).reservation = (s.line j).reservation := by
  refine (((Calm.flushLine (k := k) (p := p) s).line j).reservation settled).trans ?_
  rw [State.line_modLine]
  split
  · rw [LineRec.emptied_eq]
  · rfl

/-! ## LINE-RESET (R155) -/

theorem lineResetBody_refused (beyond : 7 < (byteAt c.ops 0).toNat) : lineResetBody c s = (s, Reply.operand 1) := by
  simp only [lineResetBody, lineOfByte?_of_gt beyond]

theorem lineResetBody_off (named : (byteAt c.ops 0).toNat = k.val) (off : (s.line k).state = .off) :
    lineResetBody c s = (s, Reply.ok [0#8]) := by
  have kept : resetLine k s = s := if_pos off
  simp only [lineResetBody, lineOfByte?_of_eq named, kept, off]
  rfl

theorem lineResetBody_up (named : (byteAt c.ops 0).toNat = k.val) (up : (s.line k).state ≠ .off) :
    lineResetBody c s =
      (flushLine k (decide ((s.line k).config.mode = .polled)) (s.setLine k { s.line k with turnaround := none }),
        Reply.ok [(s.line k).state.code]) := by
  have state := (flushedTo_flushLine k (decide ((s.line k).config.mode = .polled))
    (s.setLine k { s.line k with turnaround := none })).state
  rw [State.line_setLine_same] at state
  simp only [lineResetBody, lineOfByte?_of_eq named, resetLine, if_neg up, State.modLine_def, state]

/-- Settles O60: a line that is up is flushed, and the flushed line stands field by field. -/
theorem lineResetFlushesAndKeepsState : Obligations.LineResetFlushesAndKeepsState := by
  intro s c ready code ok
  refine ⟨fun beyond => ?refused, fun k named off => ?off, fun k named up => ?up⟩
  case refused => exact execCommand_refused ready code (lineResetBody_refused beyond) nofun
  case off => exact execCommand_ok ready code (lineResetBody_off named off) rfl ready.running
  case up =>
    intro polled v u
    have line : v.line k = { s.line k with turnaround := none } := State.line_setLine_same ..
    have others (j : Line) (ne : j ≠ k) : v.line j = s.line j := State.line_setLine_ne _ _ _ _ ne
    have own : lineResetBody c s = (u, ok (s.line k).state.code) := lineResetBody_up named up
    have made : flushLine k polled v = u := rfl
    have before : v.globals = s.globals ∧ v.agent = s.agent ∧ v.notice = s.notice ∧ v.pool = s.pool :=
      ⟨rfl, rfl, rfl, rfl⟩
    clear_value u v
    obtain ⟨globalsBefore, agent, notice, pool⟩ := before
    have running : u.agent.state ≠ .restartPending := by
      rw [← made, flushLine_agent_state, agent]
      exact ready.running
    have globals := (flushLine_globals (k := k) (s := v) (p := polled)).trans globalsBefore
    have ports (j : Line) (ne : j ≠ k) := flushLine_port_ne (s := v) (p := polled) ne
    have flushed := flushedTo_flushLine k polled v
    have returns := normalQ_flushLine k polled v
    have urgent := urgentQ_flushLine k polled v
    have down := queues_flushLine (k := k) (s := v) (p := polled)
    have reservation := reservation_flushLine (p := polled) (j := k) k v
    have counter (d) (other : d ≠ .qRefused) := flushLine_counter (k := k) (s := v) (p := polled) d other k
    have record := flushLine_record (k := k) (s := v) (p := polled) .lineChange rfl
    rw [made] at globals flushed returns urgent down reservation record
    simp only [made] at ports counter
    rw [notice] at urgent record
    rw [pool] at reservation
    rw [State.flushReturns, line] at returns
    rw [line] at flushed reservation counter down
    refine ⟨execCommand_ok ready code own rfl running, globals, fun j ne => (ports j ne).trans (congrArg LineRec.port (others j ne)), flushed.config,
      flushed.state, flushed.phase, flushed.gap, flushed.quiet, flushed.brk, flushed.inChar, flushed.faultTimer,
      flushed.recovery, ?turnaround, flushed.tp, flushed.await, flushed.confirmTimer, flushed.pendingConf, flushed.memo,
      flushed.window, flushed.windowTimer, flushed.pauseTimer, returns, urgent.1, urgent.2, ?fault, ?polled, ?direct,
      ?reservation, counter, record⟩
    case turnaround =>
      rw [flushed.turnaround]
      by_cases wait : (s.line k).config.turnaround = 0 <;> simp [wait]
    case fault => exact fun fault => down (by rw [fault]; nofun)
    case polled =>
      intro mode
      have on : polled = true := decide_eq_true mode
      rw [on] at flushed
      exact ⟨flushed.pollList, flushed.pollPos, flushed.cycle, flushed.burst⟩
    case direct =>
      intro mode
      have off : polled = false := decide_eq_false mode
      rw [off] at flushed
      exact flushed.pollList
    case reservation => exact fun i held settled => (reservation settled).trans held

end Sys2Proof.Machine
end


section
/-! PROOFS. The entry to FAULT: the fallen line, the slots a flush has nothing to do with, and the reply that a
pending restart waits for. -/

namespace Sys2Proof.Machine

variable {a s t u w : State} {i m r : SlotIx} {j k : Line} {is : List SlotIx}

/-! ## Slots that a flush leaves alone -/

theorem Apart.makeReturn_ne (h : Apart m a s) {x : Reason} (ne : m ≠ i) : Apart m a (makeReturn x i s) :=
  ⟨(State.slot_modSlot_ne _ _ _ _ ne).trans h.slot, h.out⟩

theorem Apart.flushDrop_ne (h : Apart m a s) (ne : m ≠ i) : Apart m a (flushDrop s i) := by
  obtain ⟨g, e⟩ := Flushed.flushDrop_eq i s
  rw [e]
  exact (h.dropRef_ne ne).of_eq rfl rfl

theorem Apart.flushDrops_ne (h : Apart m a s) (other : m ∉ is) : Apart m a (is.foldl flushDrop s) := by
  induction is generalizing s with
  | nil => exact h
  | cons i is ih =>
    obtain ⟨ne, other⟩ := not_or.mp (mt List.mem_cons.mpr other)
    exact ih (h.flushDrop_ne ne) other

/-- A flush under way has left slot `m` alone and made no RETURN in it. -/
def FlushApart (m : SlotIx) (a : State) (acc : State × List SlotIx) : Prop := Apart m a acc.1 ∧ m ∉ acc.2

theorem FlushApart.flushRef_ne {acc : State × List SlotIx} (h : FlushApart m a acc) (ne : m ≠ i) :
    FlushApart m a (flushRef acc i) := by
  obtain ⟨apart, out⟩ := h
  unfold flushRef
  split
  · exact ⟨apart.makeReturn_ne ne, by simp [out, ne]⟩
  · exact ⟨apart.flushDrop_ne ne, out⟩

theorem FlushApart.flushRefs_ne {acc : State × List SlotIx} (h : FlushApart m a acc) (other : m ∉ is) :
    FlushApart m a (is.foldl flushRef acc) := by
  induction is generalizing acc with
  | nil => exact h
  | cons i is ih =>
    obtain ⟨ne, other⟩ := not_or.mp (mt List.mem_cons.mpr other)
    exact ih (h.flushRef_ne ne) other

theorem flushApart_flushTp {tp : Option TxItem} (h : Apart m a s) (other : m ∉ (tp.bind TxItem.slot?).toList) :
    FlushApart m a (flushTp tp s) := by
  match tp, other with
  | none, _ => exact ⟨h, nofun⟩
  | some (.conf _), _ => exact ⟨h, nofun⟩
  | some (.poll _), _ => exact ⟨h, nofun⟩
  | some (.urgent i), other => exact ⟨h.flushDrop_ne (List.ne_of_not_mem_cons other), nofun⟩
  | some (.normal i), other => exact FlushApart.flushRef_ne ⟨h, nofun⟩ (List.ne_of_not_mem_cons other)
  | some (.resend i), other => exact ⟨h.flushDrop_ne (List.ne_of_not_mem_cons other), nofun⟩

theorem FlushApart.flushAwait_ne {acc : State × List SlotIx} {x : Await} (h : FlushApart m a acc)
    (other : m ∉ x.slot?.toList) : FlushApart m a (flushAwait x acc) := by
  obtain ⟨apart, out⟩ := h
  unfold flushAwait
  split
  · exact ⟨apart, out⟩
  · next i held =>
    have ne : m ≠ i := by rw [held] at other; exact List.ne_of_not_mem_cons other
    exact ⟨apart.makeReturn_ne ne, by simp [out, ne]⟩

theorem flushApart_flushFrames {l : LineRec} (h : Apart m a s) (other : m ∉ l.refs) :
    FlushApart m a (flushFrames l s) := by
  simp only [LineRec.refs, List.mem_append, not_or] at other
  obtain ⟨⟨⟨⟨-, normal⟩, urgent⟩, tp⟩, await⟩ := other
  obtain ⟨apart, out⟩ := ((flushApart_flushTp h tp).flushAwait_ne await).flushRefs_ne normal
  exact ⟨apart.flushDrops_ne urgent, out⟩

theorem Apart.routeReturn_ne (h : Apart m a s) (ne : m ≠ i) : Apart m a (routeReturn i s) := by
  cases decided : decideRelay s.route (s.frame i).dest with
  | forward j d =>
    have rewritten : Apart m a (s.modFrame i fun f => { f with dest := d }) := h.modSlot_ne ne
    rw [routeReturn_forward decided]
    split
    · exact rewritten.of_eq rfl rfl
    · exact rewritten.countLine.dropRef_ne ne
  | discard =>
    rw [routeReturn_discard decided]
    exact h.countRelay.dropRef_ne ne
  | unrouted =>
    rw [routeReturn_unrouted decided]
    exact h.countRelay.noteEvent.dropRef_ne ne

theorem Apart.routeReturns_ne (h : Apart m a s) (other : m ∉ is) :
    Apart m a (is.foldl (fun s i => Machine.routeReturn i s) s) := by
  induction is generalizing s with
  | nil => exact h
  | cons i is ih =>
    obtain ⟨ne, other⟩ := not_or.mp (mt List.mem_cons.mpr other)
    exact ih (h.routeReturn_ne ne) other

theorem Apart.evaluatePool (h : Apart m a s) : Apart m a (evaluatePool s) := by
  have evaluated : Apart m a (s.modPool fun p => { p with state := p.evaluated }) := h.of_eq rfl rfl
  unfold Machine.evaluatePool
  dsimp only
  split
  · exact evaluated.noteEvent
  · exact evaluated

/-- A slot that the line does not hold and that is not free is no part of the line's flush. -/
theorem Apart.flushLine_ne (h : Apart m a s) {p : Bool} (other : m ∉ (s.line k).refs) :
    Apart m a (flushLine k p s) := by
  have emptied : Apart m a (s.modLine k (LineRec.emptied p)) := h.of_eq rfl rfl
  obtain ⟨apart, out⟩ := flushApart_flushFrames emptied other
  exact ((apart.routeReturns_ne out).poolService).evaluatePool

/-! ## The reply an agent holds for a line that goes down (R137, R145) -/

theorem dropHeldReply_cases (k : Line) (s : State) : dropHeldReply k s = s ∨
    ∃ i, s.agent.current = some i ∧ (s.slot i).arrival = some k ∧ dropHeldReply k s = releaseReply i s := by
  unfold dropHeldReply
  split
  · exact .inl rfl
  · next i held =>
    split
    · next waits =>
      rw [Bool.and_eq_true, decide_eq_true_eq] at waits
      exact .inr ⟨i, held, waits.2, rfl⟩
    · exact .inl rfl

theorem dropHeldReply_released (held : s.agent.current = some i) (pending : s.agent.state = .restartPending)
    (arrival : (s.slot i).arrival = some k) : dropHeldReply k s = releaseReply i s := by
  simp [dropHeldReply, held, Agent.waitsForRoom, pending, arrival]

theorem releaseReply_state (i : SlotIx) (s : State) : (releaseReply i s).agent.state = s.agent.state.afterReply := by
  rw [releaseReply_agent]
  unfold noteReplyGone
  split <;> rfl

/-- With the reply already lost, what the agent holds besides makes no difference to the restart. -/
theorem dropHeldReply_due (pending : s.agent.state = .restartPending) (lost : s.agent.restartReply = none) :
    (dropHeldReply k s).agent.state = .restartPending ∧ (dropHeldReply k s).agent.restartReply = none := by
  rcases dropHeldReply_cases k s with e | ⟨i, -, -, e⟩
  · rw [e]; exact ⟨pending, lost⟩
  · rw [e, releaseReply_state, releaseReply_agent, noteReplyGone_none (show (s.modAgent Agent.letGo).agent.restartReply =
      none from lost), pending]
    exact ⟨rfl, lost⟩

theorem dropHeldReply_kept (reply : s.agent.restartReply = some r)
    (other : s.agent.current = some r → (s.slot r).arrival ≠ some k) :
    (dropHeldReply k s).agent.restartReply = some r := by
  rcases dropHeldReply_cases k s with e | ⟨i, held, arrival, e⟩
  · rw [e, reply]
  · have ne : r ≠ i := fun same => other (same ▸ held) (same ▸ arrival)
    have kept : (s.modAgent Agent.letGo).agent.restartReply = some r := reply
    rw [e, releaseReply_agent, noteReplyGone, if_neg (by rw [kept]; exact fun same => ne (Option.some.inj same)), kept]

theorem dropHeldReply_state (running : s.agent.state ≠ .restartPending) :
    (dropHeldReply k s).agent.state ≠ .restartPending := by
  rcases dropHeldReply_cases k s with e | ⟨i, -, -, e⟩
  · rw [e]; exact running
  · rw [e, releaseReply_state, AgentState.afterReply, if_neg running]; nofun

/-! ## The fallen line -/

/-- Line `k` at the entry to FAULT, before its flush (R22, R23). -/
def State.faulted (s : State) (k : Line) : State :=
  s.setLine k
    { s.line k with
      state := .fault, faultTimer := none
      recovery := if (s.line k).rxd = .mark then some 50 else none
      rx := { (s.line k).rx with brk := false, inChar := false } }

/-- Line `k` in FAULT: flushed, with LINE-CHANGE recorded (R22, R89). -/
def State.fallen (s : State) (k : Line) : State :=
  noteEvent .lineChange (some k) none (flushLine k (decide ((s.line k).config.mode = .polled)) (s.faulted k))

theorem enterFault_eq (k : Line) (s : State) : enterFault k s = restartIfDue (dropHeldReply k (s.fallen k)) := by
  have line : (s.faulted k).line k = _ := State.line_setLine_same ..
  have mode : ((s.faulted k).line k).config.mode = (s.line k).config.mode := by rw [line]
  unfold State.fallen
  rw [← mode]
  rfl

/-- A line in FAULT after its flush and what follows in the event: empty, and otherwise as the fall has made it. -/
theorem Calm.flushed_line {p : Bool} (calm : Calm (s.modLine k (LineRec.emptied p)) t)
    (down : (s.line k).state ≠ .active) :
    (s.line k).FlushedTo p (t.line k) ∧ (t.line k).normalQ = [] ∧ (t.line k).urgentQ = [] ∧
      (LineSet.has s.pool.waiters k = false → (t.line k).reservation = (s.line k).reservation) := by
  have line : (s.modLine k (LineRec.emptied p)).line k = (s.line k).emptied p := State.line_modLine_same s k _
  have kept := calm.line k
  rw [line] at kept
  have off : ((s.line k).emptied p).state ≠ .active := by rw [LineRec.emptied_eq]; exact down
  obtain ⟨engine, normalQ, urgentQ⟩ := kept.resting off
  refine ⟨.of_views kept.port engine, normalQ.trans ?_, urgentQ.trans ?_, fun settled => ?_⟩
  · rw [LineRec.emptied_eq]
  · rw [LineRec.emptied_eq]
  · refine (kept.reservation settled).trans ?_
    rw [LineRec.emptied_eq]

theorem State.fallen_calm (s : State) (k : Line) :
    Calm ((s.faulted k).modLine k (LineRec.emptied (decide ((s.line k).config.mode = .polled)))) (s.fallen k) :=
  (Calm.flushLine (s.faulted k)).noteEvent

/-- What is kept of the other lines and of the settings while line `k` falls. -/
theorem State.kept_of_fallen (calm : Calm (s.fallen k) t) :
    t.globals = s.globals ∧ ∀ j, j ≠ k → t.port j = s.port j := by
  have whole := (s.fallen_calm k).trans calm
  refine ⟨whole.globals, fun j ne => (whole.line j).port.trans ?_⟩
  rw [State.line_modLine_ne _ _ _ _ ne, State.faulted, State.line_setLine_ne _ _ _ _ ne, State.port]

theorem State.faulted_refs : ((s.faulted k).line k).refs = (s.line k).refs := by
  rw [State.faulted, State.line_setLine_same]; rfl

theorem State.fallen_agent (s : State) (k : Line) :
    AgentLoses (s.line k).refs (TxItem.otherSlots (s.line k).tp ++ (s.line k).urgentQ) s.agent (s.fallen k).agent := by
  have flushed := agentLoses_flushLine k (decide ((s.line k).config.mode = .polled)) (s.faulted k)
  have line : (s.faulted k).line k = _ := State.line_setLine_same ..
  rw [State.faulted_refs, line] at flushed
  rw [State.fallen, noteEvent_agent]
  exact flushed

theorem State.fallen_apart (other : r ∉ (s.line k).refs) (out : r ∉ s.pool.free) : Apart r s (s.fallen k) := by
  have faulted : Apart r s (s.faulted k) := (Apart.refl out).of_eq rfl rfl
  exact (faulted.flushLine_ne (by rw [State.faulted_refs]; exact other)).noteEvent

theorem State.fallen_record (s : State) (k : Line) : (s.fallen k).notice.records.get NoticeKind.lineChange.code =
    { pending := true
      count := if (s.notice.records.get NoticeKind.lineChange.code).count = 0xFF#8 then 0xFF#8
        else (s.notice.records.get NoticeKind.lineChange.code).count + 1#8
      line := some k, value := none } := by
  have before := flushLine_record (k := k) (s := s.faulted k) (p := decide ((s.line k).config.mode = .polled))
    .lineChange rfl
  have same : (s.faulted k).notice = s.notice := rfl
  rw [State.fallen, noteEvent, emissionTest_record (by decide), record_recordEvent, if_pos rfl, before, same,
    count_saturates]

/-! ## The restart that a lost reply brings (R145) -/

/-- The reply a pending restart waits for is lost with the line, in its places or held for it. -/
theorem restart_of_lost (pending : s.agent.state = .restartPending) (reply : s.agent.restartReply = some r)
    (lost : (s.line k).tp = some (.urgent r) ∨ r ∈ (s.line k).urgentQ ∨
      (s.agent.current = some r ∧ (s.slot r).arrival = some k ∧ r ∉ (s.line k).refs ∧ r ∉ s.pool.free)) :
    (dropHeldReply k (s.fallen k)).agent.state = .restartPending ∧
      (dropHeldReply k (s.fallen k)).agent.restartReply = none := by
  have loses := s.fallen_agent k
  have still : (s.fallen k).agent.state = .restartPending := loses.state.trans pending
  have dropped (member : r ∈ TxItem.otherSlots (s.line k).tp ++ (s.line k).urgentQ) :
      (s.fallen k).agent.restartReply = none := by
    rcases loses.reply with e | e
    · exact absurd (e.trans reply) (loses.lost r member)
    · exact e
  rcases lost with tp | member | ⟨current, arrival, other, out⟩
  · exact dropHeldReply_due still (dropped (List.mem_append_left _ (by rw [tp]; exact List.mem_singleton_self r)))
  · exact dropHeldReply_due still (dropped (List.mem_append_right _ member))
  · have held : (s.fallen k).agent.current = some r := (congrArg Agent.current loses.same).trans current
    have kept : (s.fallen k).agent.restartReply = some r :=
      (loses.kept fun m mem e => other (Option.some.inj (reply.symm.trans e) ▸ mem)).trans reply
    have slot : ((s.fallen k).slot r).arrival = some k := by rw [(State.fallen_apart other out).slot, arrival]
    rw [dropHeldReply_released held still slot]
    have due := restartDue_of_released (i := r) still kept
    simp only [Agent.restartDue, Bool.and_eq_true, decide_eq_true_eq, Option.isNone_iff_eq_none] at due
    exact due

/-- A restart does not come while none is pending or while its reply lies elsewhere. -/
theorem noRestart_of_kept (kept : s.agent.state ≠ .restartPending ∨
    ∃ r, s.agent.restartReply = some r ∧ r ∉ (s.line k).refs ∧
      (s.agent.current = some r → (s.slot r).arrival ≠ some k ∧ r ∉ s.pool.free)) :
    restartIfDue (dropHeldReply k (s.fallen k)) = dropHeldReply k (s.fallen k) := by
  have loses := s.fallen_agent k
  rcases kept with running | ⟨r, reply, other, elsewhere⟩
  · exact restartIfDue_of_state (dropHeldReply_state fun e => running (loses.state.symm.trans e))
  · have still : (s.fallen k).agent.restartReply = some r :=
      (loses.kept fun m mem e => other (Option.some.inj (reply.symm.trans e) ▸ mem)).trans reply
    refine restartIfDue_of_reply (dropHeldReply_kept still fun current => ?_)
    obtain ⟨arrival, out⟩ := elsewhere ((congrArg Agent.current loses.same).symm.trans current)
    rw [(State.fallen_apart other out).slot]
    exact arrival

theorem State.de_of_fault (fault : (s.line k).state = .fault) : s.de k = false := by
  simp [State.de, fault]

theorem State.fltLow_of_fault (up : s.rstnLow = false) (fault : (s.line k).state = .fault) : s.fltLow = true := by
  have member : k ∈ allLines := (by decide : ∀ j : Line, j ∈ allLines) k
  simp only [State.fltLow, up, Bool.not_false, Bool.true_and, List.any_eq_true]
  exact ⟨k, member, decide_eq_true fault⟩

/-- Settles O46: the fall is a flush, LINE-CHANGE and the release of a held reply, which are calm but for the agent's
pending reply; whether that reply is lost decides the restart. -/
theorem faultTimerTakesLineDown : Obligations.FaultTimerTakesLineDown := by
  intro s k n up active running u
  have fall : enterFault k s = restartIfDue u := enterFault_eq k s
  have calm : Calm (s.fallen k) u := (Calm.refl _).dropHeldReply
  have whole : Calm ((s.faulted k).modLine k (LineRec.emptied (decide ((s.line k).config.mode = .polled)))) u :=
    (s.fallen_calm k).trans calm
  have possible : (decide ((s.line k).state = .active) && (s.line k).faultTimer.isSome) = true := by
    simp [active, running]
  have line : (s.faulted k).line k = _ := State.line_setLine_same ..
  have down : ((s.faulted k).line k).state = .fault := by rw [line]
  have lost (r) (pending) (reply) (places) := restart_of_lost (s := s) (k := k) (r := r) pending reply places
  have kept (places) := noRestart_of_kept (s := s) (k := k) places
  have record := (dropHeldReply_steady k (s.fallen k)).record .lineChange rfl
  rw [s.fallen_record k] at record
  have made : dropHeldReply k (s.fallen k) = u := rfl
  rw [made] at record
  simp only [made] at lost kept
  clear_value u
  constructor
  · intro r pending reply places
    obtain ⟨state, gone⟩ := lost r pending reply places
    have due : u.agent.restartDue = true := by simp [Agent.restartDue, state, gone]
    obtain ⟨t, next, follows⟩ := answers_of (exec_faultTimerExpiry s k) up possible
      (fall.trans (restartIfDue_of_due due))
    obtain ⟨globals, ports⟩ := State.kept_of_fallen calm
    obtain ⟨flushed, -⟩ := whole.flushed_line (by rw [down]; nofun)
    exact ⟨t, next, follows, globals, ports, flushed.state.trans down, gone⟩
  · intro places
    obtain ⟨t, next, follows⟩ := answers_of (exec_faultTimerExpiry s k) up possible (fall.trans (kept places))
    have settled : t = settle u := follows.settled
    have after : Calm u t := settled ▸ (Calm.refl u).settle
    obtain ⟨globals, ports⟩ := State.kept_of_fallen (calm.trans after)
    obtain ⟨flushed, normalQ, urgentQ, reservation⟩ := (whole.trans after).flushed_line (by rw [down]; nofun)
    have fault := flushed.state.trans down
    have high : t.rstnLow = false := (congrArg Globals.rstnLow globals).trans up
    rw [line] at flushed
    refine ⟨t, next, follows, globals, ports, fault, flushed.config, flushed.phase, flushed.brk, flushed.gap,
      flushed.quiet, flushed.faultTimer, flushed.recovery, flushed.tp, normalQ, urgentQ, flushed.await,
      flushed.confirmTimer, flushed.pendingConf, flushed.memo, flushed.window, flushed.windowTimer, flushed.pauseTimer,
      fun i held waits => ?reservation, fun mode => ?polled, State.de_of_fault fault, State.fltLow_of_fault high fault,
      (follows.steady.record .lineChange rfl).trans record⟩
    case reservation => exact (reservation waits).trans (by rw [line]; exact held)
    case polled =>
      rw [decide_eq_true mode] at flushed
      exact ⟨flushed.pollList, flushed.pollPos, flushed.cycle, flushed.burst⟩

end Sys2Proof.Machine
end


section
/-! PROOFS. LINE-SET's tests in the words of Table 2-1, and the fields of the record it writes. -/

namespace Sys2Proof.Machine

variable {s t u : State} {k j : Line} {c : Cmd} {ops : List Byte} {cfg new old : LineConfig}

/-! ## Fields and their ranges (R13, Table 2-1) -/

/-- The value operands of a LINE-SET, field by field in the order of Table 2-1. -/
def lineSetValues (ops : List Byte) : List Nat :=
  let o (n : Nat) : Nat := (byteAt ops n).toNat
  [o 3, 256 * o 4 + o 5, o 6, o 7, o 8, o 9, o 10, o 11, 256 * o 12 + o 13, o 14, o 15, o 16, o 17, o 18, o 19]

/-- The least value of each field. -/
def lineSetLeast : List Nat := [0, 1, 0, 1, 2, 0, 0, 1, 5, 0, 2, 1, 1, 1, 0]

/-- The greatest value of each field. -/
def lineSetMost : List Nat := [2, 4095, 2, 2, 31, 15, 1, 120, 1000, 7, 255, 7, 15, 15, 255]

theorem wordAt_toNat (ops : List Byte) (n : Nat) :
    (wordAt ops n).toNat = 256 * (byteAt ops n).toNat + (byteAt ops (n + 1)).toNat := by
  rw [wordAt, word16, BitVec.toNat_append, ← Nat.shiftLeft_add_eq_or_of_lt (byteAt ops (n + 1)).isLt,
    Nat.shiftLeft_eq, Nat.mul_comm]

theorem isSome_mode_iff {b : Byte} : (Mode.ofCode? b).isSome = true ↔ b.toNat ≤ 2 := by
  unfold Mode.ofCode?
  split <;> simp only [Option.isSome_some, Option.isSome_none, true_iff, false_iff, Bool.false_eq_true,
    imp_false] at * <;> omega

theorem isSome_parity_iff {b : Byte} : (Parity.ofCode? b).isSome = true ↔ b.toNat ≤ 2 := by
  unfold Parity.ofCode?
  split <;> simp only [Option.isSome_some, Option.isSome_none, true_iff, false_iff, Bool.false_eq_true,
    imp_false] at * <;> omega

theorem isSome_bool_iff {b : Byte} : (boolOfCode? b).isSome = true ↔ b.toNat ≤ 1 := by
  unfold boolOfCode?
  split <;> simp only [Option.isSome_some, Option.isSome_none, true_iff, false_iff, Bool.false_eq_true,
    imp_false] at * <;> omega

theorem inRange_iff {lo hi n : Nat} : inRange lo hi n = true ↔ lo ≤ n ∧ n ≤ hi := by
  simp [inRange]

/-- The model's range test of a field is that of Table 2-1. -/
theorem fieldInRange_iff {n : Nat} (field : n < 15) : fieldInRange ops n = true ↔
    lineSetLeast.getD n 0 ≤ (lineSetValues ops).getD n 0 ∧ (lineSetValues ops).getD n 0 ≤ lineSetMost.getD n 0 := by
  interval_cases n <;>
    simp [fieldInRange, inRange_iff, isSome_mode_iff, isSome_parity_iff, isSome_bool_iff, wordAt_toNat, lineSetLeast,
      lineSetMost, lineSetValues]

/-- A named field whose value lies outside its range. -/
def FieldBad (ops : List Byte) (n : Nat) : Prop :=
  (wordAt ops 1).getLsbD n = true ∧ ((lineSetValues ops).getD n 0 < lineSetLeast.getD n 0 ∨
    lineSetMost.getD n 0 < (lineSetValues ops).getD n 0)

theorem fieldBad_iff {n : Nat} (field : n < 15) :
    FieldBad ops n ↔ (names (lineChanges ops) n && !fieldInRange ops n) = true := by
  rw [Bool.and_eq_true, Bool.not_eq_true', Bool.eq_false_iff, ne_eq, fieldInRange_iff field, not_and_or, not_le, not_le]
  rfl

theorem firstOutOfRange_eq_some {n : Nat} (field : n < 15) (bad : FieldBad ops n)
    (first : ∀ m, m < n → ¬ FieldBad ops m) : firstOutOfRange ops = some n := by
  refine List.find?_range_eq_some.mpr ⟨(fieldBad_iff field).mp bad, List.mem_range.mpr field, fun m lt => ?_⟩
  have fine := mt (fieldBad_iff (lt.trans field)).mpr (first m lt)
  rw [Bool.eq_false_of_not_eq_true fine]
  rfl

theorem firstOutOfRange_eq_none_iff : firstOutOfRange ops = none ↔ ∀ n, n < 15 → ¬ FieldBad ops n := by
  simp only [firstOutOfRange, List.find?_eq_none, List.mem_range]
  exact forall₂_congr fun n field => not_congr (fieldBad_iff field).symm

/-! ## The chain of tests (R152, R153) -/

/-- Two records have one character format. -/
def SameFormat (new old : LineConfig) : Prop :=
  new.divisor = old.divisor ∧ new.parity = old.parity ∧ new.stopBits = old.stopBits

theorem not_formatDiffers_iff : ¬ new.formatDiffers old = true ↔ SameFormat new old := by
  simp [LineConfig.formatDiffers, SameFormat, and_assoc]

theorem LineConfig.wayIn_iff : cfg.wayIn = true ↔ cfg.mode ≠ .off ∧ cfg.mgmtAccepted = true := by
  simp [LineConfig.wayIn]

theorem keepsWayIn_iff : keepsWayIn s k cfg = true ↔ (cfg.mode ≠ .off ∧ cfg.mgmtAccepted = true) ∨
    ∃ j, j ≠ k ∧ (s.line j).config.mode ≠ .off ∧ (s.line j).config.mgmtAccepted = true := by
  have all (j : Line) : j ∈ allLines := (by decide : ∀ j : Line, j ∈ allLines) j
  simp only [keepsWayIn, List.any_eq_true, all, true_and]
  constructor
  · rintro ⟨j, way⟩
    split at way
    · exact .inl (LineConfig.wayIn_iff.mp way)
    · next ne => exact .inr ⟨j, ne, LineConfig.wayIn_iff.mp way⟩
  · rintro (way | ⟨j, ne, way⟩)
    · exact ⟨k, by rw [if_pos rfl]; exact LineConfig.wayIn_iff.mpr way⟩
    · exact ⟨j, by rw [if_neg ne]; exact LineConfig.wayIn_iff.mpr way⟩

section
variable (good : ∀ n, n < 15 → ¬ FieldBad ops n)
include good

/-- The tests that follow those of the ranges. -/
theorem lineSetRefusal_eq : lineSetRefusal s k ops =
    let new := (s.line k).config.changed ops
    if (s.line k).state ≠ .off ∧ new.formatDiffers (s.line k).config = true then some (Reply.refusal .lineState 0#8)
    else if (s.line k).state ≠ .off ∧ new.mode ≠ .off ∧ new.mode ≠ (s.line k).config.mode then
      some (Reply.refusal .lineState 0#8)
    else if !keepsWayIn s k new then some (Reply.refusal .lineState 1#8)
    else none := by
  unfold lineSetRefusal
  rw [firstOutOfRange_eq_none_iff.mpr good]

theorem lineSetRefusal_format (up : (s.line k).state ≠ .off)
    (differs : ¬ SameFormat ((s.line k).config.changed ops) (s.line k).config) :
    lineSetRefusal s k ops = some (Reply.refusal .lineState 0#8) := by
  rw [lineSetRefusal_eq good]
  exact if_pos ⟨up, of_not_not (mt not_formatDiffers_iff.mp differs)⟩

theorem lineSetRefusal_mode (up : (s.line k).state ≠ .off)
    (same : SameFormat ((s.line k).config.changed ops) (s.line k).config)
    (on : ((s.line k).config.changed ops).mode ≠ .off)
    (other : ((s.line k).config.changed ops).mode ≠ (s.line k).config.mode) :
    lineSetRefusal s k ops = some (Reply.refusal .lineState 0#8) := by
  rw [lineSetRefusal_eq good]
  exact (if_neg fun h => not_formatDiffers_iff.mpr same h.2).trans (if_pos ⟨up, on, other⟩)

/-- The change is one that the line's state allows (R152). -/
def ChangeAllowed (s : State) (k : Line) (new : LineConfig) : Prop :=
  (s.line k).state = .off ∨ (SameFormat new (s.line k).config ∧ (new.mode = .off ∨ new.mode = (s.line k).config.mode))

theorem lineSetRefusal_allowed (allowed : ChangeAllowed s k ((s.line k).config.changed ops)) :
    lineSetRefusal s k ops =
      if !keepsWayIn s k ((s.line k).config.changed ops) then some (Reply.refusal .lineState 1#8) else none := by
  rw [lineSetRefusal_eq good]
  refine (if_neg ?_).trans (if_neg ?_)
  · rintro ⟨up, differs⟩
    rcases allowed with off | ⟨same, -⟩
    · exact up off
    · exact not_formatDiffers_iff.mpr same differs
  · rintro ⟨up, on, other⟩
    rcases allowed with off | ⟨-, down | kept⟩
    · exact up off
    · exact on down
    · exact other kept

end

theorem lineSetRefusal_eq_none_iff : lineSetRefusal s k ops = none ↔ (∀ n, n < 15 → ¬ FieldBad ops n) ∧
    ChangeAllowed s k ((s.line k).config.changed ops) ∧
    ((((s.line k).config.changed ops).mode ≠ .off ∧ ((s.line k).config.changed ops).mgmtAccepted = true) ∨
      ∃ j, j ≠ k ∧ (s.line j).config.mode ≠ .off ∧ (s.line j).config.mgmtAccepted = true) := by
  rw [← keepsWayIn_iff]
  constructor
  · intro accepted
    obtain ⟨inRange, wayIn⟩ := lineSetRefusal_eq_none accepted
    have good := firstOutOfRange_eq_none_iff.mp inRange
    refine ⟨good, ?_, wayIn⟩
    by_contra forbidden
    simp only [ChangeAllowed, not_or, not_and] at forbidden
    obtain ⟨up, other⟩ := forbidden
    by_cases same : SameFormat ((s.line k).config.changed ops) (s.line k).config
    · obtain ⟨on, changed⟩ := other same
      cases accepted.symm.trans (lineSetRefusal_mode good up same on changed)
    · cases accepted.symm.trans (lineSetRefusal_format good up same)
  · rintro ⟨good, allowed, wayIn⟩
    rw [lineSetRefusal_allowed good allowed, wayIn]
    rfl

/-! ## The record after a LINE-SET (R154) -/

theorem LineConfig.changed_mode : (names (lineChanges ops) 0 = false → (cfg.changed ops).mode = cfg.mode) ∧
    (names (lineChanges ops) 0 = true →
      ((byteAt ops 3).toNat = 0 → (cfg.changed ops).mode = .off) ∧
      ((byteAt ops 3).toNat = 1 → (cfg.changed ops).mode = .direct) ∧
      ((byteAt ops 3).toNat = 2 → (cfg.changed ops).mode = .polled)) := by
  refine ⟨fun h => if_neg (by rw [h]; nofun), fun h => ?_⟩
  have named : (cfg.changed ops).mode = (Mode.ofCode? (byteAt ops 3)).getD cfg.mode := if_pos h
  refine ⟨fun e => ?_, fun e => ?_, fun e => ?_⟩ <;> rw [named] <;> unfold Mode.ofCode? <;> rw [e] <;> rfl

theorem LineConfig.changed_parity : (names (lineChanges ops) 2 = false → (cfg.changed ops).parity = cfg.parity) ∧
    (names (lineChanges ops) 2 = true →
      ((byteAt ops 6).toNat = 0 → (cfg.changed ops).parity = .none) ∧
      ((byteAt ops 6).toNat = 1 → (cfg.changed ops).parity = .even) ∧
      ((byteAt ops 6).toNat = 2 → (cfg.changed ops).parity = .odd)) := by
  refine ⟨fun h => if_neg (by rw [h]; nofun), fun h => ?_⟩
  have named : (cfg.changed ops).parity = (Parity.ofCode? (byteAt ops 6)).getD cfg.parity := if_pos h
  refine ⟨fun e => ?_, fun e => ?_, fun e => ?_⟩ <;> rw [named] <;> unfold Parity.ofCode? <;> rw [e] <;> rfl

theorem LineConfig.changed_mgmt :
    (names (lineChanges ops) 6 = false → (cfg.changed ops).mgmtAccepted = cfg.mgmtAccepted) ∧
    (names (lineChanges ops) 6 = true →
      ((byteAt ops 10).toNat = 0 → (cfg.changed ops).mgmtAccepted = false) ∧
      ((byteAt ops 10).toNat = 1 → (cfg.changed ops).mgmtAccepted = true)) := by
  refine ⟨fun h => if_neg (by rw [h]; nofun), fun h => ?_⟩
  have named : (cfg.changed ops).mgmtAccepted = (boolOfCode? (byteAt ops 10)).getD cfg.mgmtAccepted := if_pos h
  refine ⟨fun e => ?_, fun e => ?_⟩ <;> rw [named] <;> unfold boolOfCode? <;> rw [e] <;> rfl

/-! ## LINE-SET's own part -/

theorem lineSetBody_line (beyond : 7 < (byteAt c.ops 0).toNat) : lineSetBody c s = (s, Reply.operand 1) := by
  simp only [lineSetBody, lineOfByte?_of_gt beyond]

theorem lineSetBody_refused {r : Reply} (named : (byteAt c.ops 0).toNat = k.val)
    (refused : lineSetRefusal s k c.ops = some r) : lineSetBody c s = (s, r) := by
  simp only [lineSetBody, lineOfByte?_of_eq named, refused]

theorem lineSetBody_carriedOut (named : (byteAt c.ops 0).toNat = k.val)
    (accepted : lineSetRefusal s k c.ops = none) : lineSetBody c s =
      (carryOutLineSet k c.ops s, Reply.ok [((carryOutLineSet k c.ops s).line k).state.code]) := by
  simp only [lineSetBody, lineOfByte?_of_eq named, accepted]

end Sys2Proof.Machine
end


section
/-! PROOFS. LINE-SET carried out: settings, a line that comes up, and a line taken down. -/

namespace Sys2Proof.Machine

variable {s t u : State} {k j : Line} {c : Cmd} {old : LineRec} {new : LineConfig} {p : Bool}

/-! ## The turn after a LINE-SET (R113, R154) -/

theorem LineRec.takesTurn_iff (l : LineRec) : l.takesTurn = true ↔ l.state = .active ∧ l.config.mode = .polled ∧
    l.tp = none ∧ l.rx.phase = .hunt ∧ l.window = .closed ∧ l.turnaround = none := by
  simp [LineRec.takesTurn, LineRec.pastTurnaround, and_assoc]

theorem LineConfig.turnFieldsDiffer_iff {a b : LineConfig} : a.turnFieldsDiffer b = true ↔
    a.burstLimit ≠ b.burstLimit ∨ a.recheckCycles ≠ b.recheckCycles ∨ a.pollPause ≠ b.pollPause := by
  simp [LineConfig.turnFieldsDiffer, or_assoc]

theorem turnAfterSet_turns (takes : (s.line k).takesTurn = true)
    (why : old.state = .off ∨ (s.line k).config.turnFieldsDiffer old.config = true) :
    turnAfterSet k old s = takeTurn k s :=
  if_pos (by simpa [takes] using why)

theorem turnAfterSet_rests (rests : ¬ ((s.line k).takesTurn = true ∧
    (old.state = .off ∨ (s.line k).config.turnFieldsDiffer old.config = true))) : turnAfterSet k old s = s :=
  if_neg (by simpa using rests)

/-! ## The change of line state (R20, R21, R154) -/

/-- Line `k` with configuration `new`. -/
def State.configured (s : State) (k : Line) (new : LineConfig) : State := s.setLine k { s.line k with config := new }

theorem carryOutLineSet_eq (k : Line) (ops : List Byte) (s : State) :
    carryOutLineSet k ops s = turnAfterSet k (s.line k)
      (changeLineState k (s.line k) (s.configured k ((s.line k).config.changed ops))) := rfl

theorem State.configured_line : (s.configured k new).line k = { s.line k with config := new } :=
  State.line_setLine_same ..

theorem changeLineState_same (same : old.state = .off ↔ new.mode = .off) :
    changeLineState k old (s.configured k new) = s.configured k new := by
  unfold changeLineState
  rw [State.configured_line]
  split
  · next off => exact if_pos (same.mp off)
  · next up => exact if_neg fun mode => up (same.mpr mode)

/-- Line `k` come up with configuration `new` (R20). -/
def State.raised (s : State) (k : Line) (new : LineConfig) : State :=
  noteEvent .lineChange (some k) none (requestReservation k (s.setLine k
    { s.line k with
      config := new, state := .active, rx := Receiver.fresh, turnaround := none
      faultTimer := none, recovery := none, pollPos := 0, cycle := 0#4, burst := 0 }))

theorem changeLineState_up (off : old.state = .off) (on : new.mode ≠ .off) :
    changeLineState k old (s.configured k new) = s.raised k new := by
  unfold changeLineState
  rw [if_pos off, State.configured_line]
  refine (if_neg on).trans ?_
  unfold lineUp State.raised
  rw [State.modLine_def, State.configured_line, State.configured, State.setLine_setLine]

theorem changeLineState_down (up : old.state ≠ .off) (mode : new.mode = .off) :
    changeLineState k old (s.configured k new) =
      lineDown k (decide (old.config.mode = .polled)) (s.configured k new) := by
  unfold changeLineState
  rw [if_neg up, State.configured_line]
  exact if_pos mode

/-! ## A line come up -/

theorem requestReservation_engine (k : Line) (s : State) (j : Line) :
    (requestReservation k s).engine j = s.engine j := by
  unfold requestReservation
  split
  · exact (grantTo_lighter k s).engine j
  · rfl

/-- The line that comes up, as the event leaves it: its receiver is fresh and its engine empty (R20). -/
theorem State.raised_line (s : State) (k : Line) (new : LineConfig) :
    ((s.raised k new).line k).state = .active ∧ ((s.raised k new).line k).config = new ∧
      ((s.raised k new).line k).rx.phase = .hunt ∧ ((s.raised k new).line k).window = (s.line k).window ∧
      ((s.raised k new).line k).turnaround = none ∧ ((s.raised k new).line k).tp = (s.line k).tp := by
  unfold State.raised
  generalize up : s.setLine k
    { s.line k with
      config := new, state := .active, rx := Receiver.fresh, turnaround := none
      faultTimer := none, recovery := none, pollPos := 0, cycle := 0#4, burst := 0 } = v
  have line : v.line k = _ := up ▸ State.line_setLine_same ..
  have port : ((noteEvent .lineChange (some k) none (requestReservation k v)).line k).port = (v.line k).port :=
    ((noteEvent_steady _ _ _ _).port k).trans ((requestReservation_steady k v).port k)
  have engine : ((noteEvent .lineChange (some k) none (requestReservation k v)).line k).engine = (v.line k).engine :=
    (noteEvent_engine k _ _ _ _).trans (requestReservation_engine k v k)
  rw [line] at port engine
  generalize (noteEvent .lineChange (some k) none (requestReservation k v)).line k = l at port engine
  exact ⟨(congrArg PortView.state port :), (congrArg PortView.config port :), (congrArg PortView.phase port :),
    (congrArg PortView.window port :), (congrArg PortView.turnaround port :), (congrArg EngineView.tp engine :)⟩

theorem State.raised_agent : (s.raised k new).agent = s.agent := by
  rw [State.raised, noteEvent_agent, requestReservation_agent]
  rfl

/-! ## A line taken down -/

theorem releaseReservation_steady (k : Line) (s : State) : Steady s (releaseReservation k s) := by
  unfold releaseReservation
  split
  · exact (Steady.modLine s k _ rfl rfl).trans (releaseRef_steady _ _)
  · exact Steady.refl s

theorem releaseReservation_agent (k : Line) (s : State) : (releaseReservation k s).agent = s.agent := by
  unfold releaseReservation
  split
  · rw [releaseRef_agent]; rfl
  · rfl

/-- Line `k` OFF, before it is flushed: it waits for no reservation, and its timers and receiver are stopped (R21). -/
def State.closing (s : State) (k : Line) : State :=
  (s.modPool fun p => { p with waiters := LineSet.erase p.waiters k }).setLine k
    { s.line k with
      state := .off, turnaround := none, faultTimer := none, recovery := none, rx := Receiver.idleStopped }

theorem lineDown_eq (k : Line) (p : Bool) (s : State) : lineDown k p s =
    noteEvent .lineChange (some k) none (releaseReservation k (flushLine k p (s.closing k))) := rfl

theorem State.closing_configured : (s.configured k new).closing k =
    (s.modPool fun p => { p with waiters := LineSet.erase p.waiters k }).setLine k
      { s.line k with
        config := new, state := .off, turnaround := none, faultTimer := none, recovery := none
        rx := Receiver.idleStopped } := by
  rw [State.closing, State.configured_line]
  exact State.setLine_setLine (s.modPool fun p => { p with waiters := LineSet.erase p.waiters k }) k _ _

theorem lineDown_agent_state : (lineDown k p s).agent.state = s.agent.state := by
  rw [lineDown_eq, noteEvent_agent, releaseReservation_agent, flushLine_agent_state]
  rfl

theorem lineDown_port_ne (ne : j ≠ k) : (lineDown k p s).port j = s.port j := by
  obtain ⟨u, first, second⟩ := lineDown_calm k p s
  have before := (first.line j).port
  have after := (second.line j).port
  rw [State.line_modLine_ne _ _ _ _ ne] at after
  rw [State.line_downed, if_neg ne] at before
  exact after.trans before

theorem lineDown_counter {d : LineCounter} (other : d ≠ .qRefused) :
    ((lineDown k p s).line k).counter d = (s.line k).counter d := by
  have noted (v : State) : ((noteEvent .lineChange (some k) none v).line k).counter d = (v.line k).counter d :=
    congrArg (Vector.get · d.index) (noteEvent_counters .lineChange (some k) none v k)
  rw [lineDown_eq, noted, (releaseReservation_steady k _).counter k d other, flushLine_counter d other k,
    State.closing, State.line_setLine_same]
  rfl

theorem lineDown_record : (lineDown k p s).notice.records.get NoticeKind.lineChange.code =
    { pending := true
      count := if (s.notice.records.get NoticeKind.lineChange.code).count = 0xFF#8 then 0xFF#8
        else (s.notice.records.get NoticeKind.lineChange.code).count + 1#8
      line := some k, value := none } := by
  have before : (releaseReservation k (flushLine k p (s.closing k))).notice.records.get NoticeKind.lineChange.code =
      s.notice.records.get NoticeKind.lineChange.code :=
    ((releaseReservation_steady k _).record .lineChange rfl).trans (flushLine_record .lineChange rfl)
  rw [lineDown_eq, noteEvent, emissionTest_record (by decide), record_recordEvent, if_pos rfl, before, count_saturates]

/-! ## The statement -/

theorem lineSet_answers {b : Byte} (ready : Ready s c) (code : c.code = 0x0A#8)
    (named : (byteAt c.ops 0).toNat = k.val) (accepted : lineSetRefusal s k c.ops = none)
    (made : carryOutLineSet k c.ops s = u) (state : u.agent.state = s.agent.state)
    (line : (u.line k).state.code = b) : ∃ t, exec .lineSet s = .next t ∧
      Follows (u.answeredOk c { status := .ok, detail := 0#8, results := [b] }) t := by
  have own := lineSetBody_carriedOut named accepted
  rw [made, line] at own
  exact execCommand_ok ready code own rfl (by rw [state]; exact ready.running)

theorem takeTurn_line_state (k j : Line) (s : State) : ((takeTurn k s).line j).state = (s.line j).state :=
  LineRec.state_of_port ((takeTurn_steady k s).port j)

section
variable (ready : Ready s c) (code : c.code = 0x0A#8) (named : (byteAt c.ops 0).toNat = k.val)
include ready code named

/-- LINE-SET's refusals, in the order of its tests (R152, R153). -/
theorem lineSet_refuses {r : Reply} (refused : lineSetRefusal s k c.ops = some r) (status : r.status ≠ .ok) :
    ∃ t, exec .lineSet s = .next t ∧ Follows (s.replied c r) t :=
  execCommand_refused ready code (lineSetBody_refused named refused) status

variable (accepted : lineSetRefusal s k c.ops = none) (written : (s.line k).config.changed c.ops = new)
include accepted written

/-- Settings alone are written: the line keeps its state (R154). -/
theorem lineSet_settings (same : (s.line k).state = .off ↔ new.mode = .off) :
    let set := s.configured k new
    let turns : Prop := (set.line k).takesTurn = true ∧ new.turnFieldsDiffer (s.line k).config = true
    (turns → ∃ t, exec .lineSet s = .next t ∧ Follows ((takeTurn k set).answeredOk c
      { status := .ok, detail := 0#8, results := [(s.line k).state.code] }) t) ∧
    (¬ turns → ∃ t, exec .lineSet s = .next t ∧ Follows (set.answeredOk c
      { status := .ok, detail := 0#8, results := [(s.line k).state.code] }) t) := by
  intro set turns
  have carried : carryOutLineSet k c.ops s = turnAfterSet k (s.line k) set := by
    rw [carryOutLineSet_eq, written, changeLineState_same same]
  have line : set.line k = { s.line k with config := new } := State.configured_line
  have config : (set.line k).config = new := by rw [line]
  have state : (set.line k).state = (s.line k).state := by rw [line]
  have agent : set.agent = s.agent := rfl
  refine ⟨fun yes => ?_, fun no => ?_⟩
  · refine lineSet_answers ready code named accepted
      (carried.trans (turnAfterSet_turns yes.1 (.inr (by rw [config]; exact yes.2)))) ?_ ?_
    · rw [takeTurn_agent, agent]
    · rw [takeTurn_line_state, state]
  · refine lineSet_answers ready code named accepted (carried.trans (turnAfterSet_rests fun yes => ?_)) ?_ ?_
    · obtain ⟨takes, off | fields⟩ := yes
      · exact absurd ((set.line k).takesTurn_iff.mp takes).1 (by rw [state, off]; nofun)
      · exact no ⟨takes, by rw [← config]; exact fields⟩
    · rw [agent]
    · rw [state]

/-- An OFF line given a mode comes up, and on a POLLED one a turn is taken (R20, R113). -/
theorem lineSet_raises (off : (s.line k).state = .off) (on : new.mode ≠ .off) :
    (new.mode = .direct → ∃ t, exec .lineSet s = .next t ∧ Follows ((s.raised k new).answeredOk c
      { status := .ok, detail := 0#8, results := [1#8] }) t) ∧
    (new.mode = .polled → (s.line k).tp = none → (s.line k).window = .closed →
      ∃ t, exec .lineSet s = .next t ∧ Follows ((takeTurn k (s.raised k new)).answeredOk c
        { status := .ok, detail := 0#8, results := [1#8] }) t) := by
  have carried : carryOutLineSet k c.ops s = turnAfterSet k (s.line k) (s.raised k new) := by
    rw [carryOutLineSet_eq, written, changeLineState_up off on]
  obtain ⟨active, config, phase, window, turnaround, tp⟩ := s.raised_line k new
  refine ⟨fun direct => ?_, fun polled empty closed => ?_⟩
  · refine lineSet_answers ready code named accepted (carried.trans (turnAfterSet_rests fun yes => ?_)) ?_ ?_
    · have mode := ((s.raised k new).line k).takesTurn_iff.mp yes.1
      rw [config, direct] at mode
      exact absurd mode.2.1 nofun
    · rw [State.raised_agent]
    · rw [active]; rfl
  · have takes : ((s.raised k new).line k).takesTurn = true :=
      LineRec.takesTurn_of active (by rw [config]; exact polled) (tp.trans empty) phase (window.trans closed) turnaround
    refine lineSet_answers ready code named accepted (carried.trans (turnAfterSet_turns takes (.inl off))) ?_ ?_
    · rw [takeTurn_agent, State.raised_agent]
    · rw [takeTurn_line_state, active]; rfl

/-- A line set OFF is taken down (R21). -/
theorem lineSet_takesDown (up : (s.line k).state ≠ .off) (mode : new.mode = .off) : ∃ t, exec .lineSet s = .next t ∧
    Follows ((lineDown k (decide ((s.line k).config.mode = .polled)) (s.configured k new)).answeredOk c
      { status := .ok, detail := 0#8, results := [0#8] }) t := by
  have configured : ((s.configured k new).line k).config.mode = .off := by rw [State.configured_line]; exact mode
  obtain ⟨modeIff, -⟩ := offLineEmpty_lineDown_same (decide ((s.line k).config.mode = .polled)) configured
  have off := modeIff.mp (by rw [lineDown_config]; exact configured)
  have carried : carryOutLineSet k c.ops s =
      lineDown k (decide ((s.line k).config.mode = .polled)) (s.configured k new) := by
    rw [carryOutLineSet_eq, written, changeLineState_down up mode]
    refine turnAfterSet_rests fun yes => ?_
    exact absurd (LineRec.takesTurn_iff _ |>.mp yes.1).1 (by rw [off]; nofun)
  refine lineSet_answers ready code named accepted carried ?_ ?_
  · rw [lineDown_agent_state]; rfl
  · rw [off]; rfl

end

/-- Settles O59: the chain of tests in Table 2-1's terms, the fields written, and the three ways a LINE-SET is carried
out by the line's state and new mode. -/
theorem lineSetTestsThenCarriesOut : Obligations.LineSetTestsThenCarriesOut := by
  refine ⟨⟨?beyond, ?tests, ?fields⟩, ?carried⟩
  case beyond => exact fun s c ready code beyond => execCommand_refused ready code (lineSetBody_line beyond) nofun
  case tests =>
    intro s c k ready code line new old refused sameFormat named o value least most bad good
    refine ⟨fun n field isBad first => ?_, fun fine up differs => ?_, fun fine up same on other => ?_,
      fun fine allowed noWay none => ?_, lineSetRefusal_eq_none_iff⟩
    · have first := firstOutOfRange_eq_some field isBad first
      refine lineSet_refuses (r := Reply.operand (n + 3)) ready code line ?_ nofun
      unfold lineSetRefusal
      rw [first]
    · exact lineSet_refuses ready code line (lineSetRefusal_format fine up differs) nofun
    · exact lineSet_refuses ready code line (lineSetRefusal_mode fine up same on other) nofun
    · have lost : keepsWayIn s k new = false := Bool.eq_false_of_not_eq_true fun way =>
        (keepsWayIn_iff.mp way).elim noWay fun ⟨j, ne, other⟩ => none j ne other
      refine lineSet_refuses (r := Reply.refusal .lineState 1#8) ready code line ?_ nofun
      exact (lineSetRefusal_allowed fine allowed).trans (by rw [lost]; rfl)
  case fields =>
    intro cfg ops named o
    exact ⟨rfl, rfl, rfl, rfl, rfl, rfl, rfl, rfl, rfl, rfl, rfl, rfl, LineConfig.changed_mode.1,
      LineConfig.changed_mode.2, LineConfig.changed_parity.1, LineConfig.changed_parity.2, LineConfig.changed_mgmt.1,
      LineConfig.changed_mgmt.2⟩
  case carried =>
    intro s c k ready code line accepted new ok old answers set idle turnFields
    have written : (s.line k).config.changed c.ops = new := rfl
    clear_value new
    refine ⟨fun same => ?settings, fun off on => lineSet_raises ready code line accepted written off on,
      fun up mode => ?down⟩
    case settings =>
      obtain ⟨turns, rests⟩ := lineSet_settings ready code line accepted written same
      have takes : ((s.configured k new).line k).takesTurn = true ↔ idle := by
        rw [LineRec.takesTurn_iff, State.configured_line]
      have fields : new.turnFieldsDiffer (s.line k).config = true ↔ turnFields := LineConfig.turnFieldsDiffer_iff
      rw [takes, fields] at turns rests
      exact ⟨turns, rests⟩
    case down =>
      obtain ⟨t, next, follows⟩ := lineSet_takesDown ready code line accepted written up mode
      have configured : ((s.configured k new).line k).config.mode = .off := by rw [State.configured_line]; exact mode
      obtain ⟨modeIff, holds⟩ := offLineEmpty_lineDown_same (decide ((s.line k).config.mode = .polled)) configured
      have config := lineDown_config k (decide ((s.line k).config.mode = .polled)) (s.configured k new) k
      have off := modeIff.mp (by rw [config]; exact configured)
      obtain ⟨nothing, waits⟩ := holds off
      refine ⟨_, t, next, follows, ?made, lineDown_globals _ _ _, fun j ne => ?port, config.trans ?config, off, nothing,
        waits, fun d other => (lineDown_counter other).trans ?counter, lineDown_record⟩
      case made => rw [lineDown_eq, State.closing_configured]
      case port =>
        exact (lineDown_port_ne ne).trans (congrArg LineRec.port (State.line_setLine_ne _ _ _ _ ne))
      case config => rw [State.configured_line]
      case counter => rw [State.configured_line]; rfl

end Sys2Proof.Machine
end


section
/-! PROOFS. The warm restart: the reservations granted, and the NOTICE of RESTARTED. -/

namespace Sys2Proof.Machine

variable {a s t u v : State} {i m : SlotIx} {j k : Line} {done ks : List Line}

/-! ## The reservations granted (R45, R55) -/

/-- Lines `done` have been granted the first slots in their order, from the cleared state `a`. -/
structure RestartGrants (a : State) (done : List Line) (s : State) : Prop where
  pool : s.pool = { a.pool with
    free := allSlots.drop done.length, lastGranted := done.getLast?.getD a.pool.lastGranted }
  units : s.route = a.route ∧ s.agent = a.agent ∧ s.notice = a.notice
  granted : ∀ (n : Nat) (k : Line), done[n]? = some k → ∃ i : SlotIx, i.val = n ∧
    s.line k = { a.line k with reservation := some i } ∧
    s.slot i = { a.slot i with arrival := some k, holders := 1, retry := 0 }
  line : ∀ k, k ∉ done → s.line k = a.line k
  slot : ∀ i : SlotIx, done.length ≤ i.val → s.slot i = a.slot i

theorem RestartGrants.start (free : a.pool.free = allSlots) : RestartGrants a [] a := by
  refine ⟨?_, ⟨rfl, rfl, rfl⟩, nofun, fun _ _ => rfl, fun _ _ => rfl⟩
  rw [List.length_nil, List.drop_zero, ← free]
  rfl

theorem allSlots_drop {n : Nat} (lt : n < 128) : allSlots.drop n = ⟨n, lt⟩ :: allSlots.drop (n + 1) := by
  rw [List.drop_eq_getElem_cons (by rw [length_allSlots]; exact lt)]
  congr 1
  exact List.getElem_finRange _

/-- A further line is granted the next slot at once (R45). -/
theorem RestartGrants.grant (h : RestartGrants a done s) (new : k ∉ done) (few : done.length < 8)
    (waiters : a.pool.waiters = 0#8) (reserve : a.pool.reserve ≤ 8) :
    RestartGrants a (done ++ [k]) (requestReservation k s) := by
  have lt : done.length < 128 := by omega
  have free : s.pool.free = ⟨done.length, lt⟩ :: allSlots.drop (done.length + 1) := by
    rw [h.pool]; exact allSlots_drop lt
  have above : s.pool.reserve < s.pool.free.length := by
    rw [h.pool]
    simp only [List.length_drop, length_allSlots]
    omega
  have next : requestReservation k s = _ := requestReservation_free free above (by rw [h.pool]; exact waiters)
  obtain ⟨route, agent, notice⟩ := h.units
  rw [next]
  refine ⟨?_, ⟨route, agent, notice⟩, fun n l at_ => ?_, fun l other => ?_, fun i above => ?_⟩
  · rw [State.modLine_pool, State.modSlot_pool, State.modPool_pool, h.pool]
    simp
  · rcases Nat.lt_trichotomy n done.length with early | here | late
    · rw [List.getElem?_append_left early] at at_
      obtain ⟨i, index, line, slot⟩ := h.granted n l at_
      have other : l ≠ k := fun e => new (e ▸ List.mem_of_getElem? at_)
      have apart : i ≠ ⟨done.length, lt⟩ := fun e => by rw [e] at index; exact early.ne index.symm
      refine ⟨i, index, ?_, ?_⟩
      · rw [State.line_modLine_ne _ _ _ _ other]; exact line
      · rw [State.modLine_slot, State.slot_modSlot_ne _ _ _ _ apart]; exact slot
    · rw [here, List.getElem?_concat_length] at at_
      cases at_
      refine ⟨⟨done.length, lt⟩, here.symm, ?_, ?_⟩
      · rw [State.line_modLine_same]
        exact congrArg (fun l : LineRec => { l with reservation := some ⟨done.length, lt⟩ }) (h.line k new)
      · rw [State.modLine_slot, State.slot_modSlot_same]
        exact congrArg (fun x : Slot => { x with arrival := some k, holders := 1, retry := 0 })
          (h.slot ⟨done.length, lt⟩ (Nat.le_refl done.length))
    · rw [List.getElem?_eq_none (by simp; omega)] at at_
      cases at_
  · rw [List.mem_append, List.mem_singleton, not_or] at other
    rw [State.line_modLine_ne _ _ _ _ other.2]
    exact h.line l other.1
  · rw [List.length_append, List.length_singleton] at above
    have apart : i ≠ ⟨done.length, lt⟩ := fun e => by rw [e] at above; exact absurd above (Nat.not_succ_le_self _)
    rw [State.modLine_slot, State.slot_modSlot_ne _ _ _ _ apart]
    exact h.slot i (by omega)

theorem RestartGrants.requests (h : RestartGrants a done s) (distinct : (done ++ ks).Nodup)
    (few : done.length + ks.length ≤ 8) (waiters : a.pool.waiters = 0#8) (reserve : a.pool.reserve ≤ 8) :
    RestartGrants a (done ++ ks.filter fun k => decide ((a.line k).state ≠ .off)) (ks.foldl requestIfUp s) := by
  induction ks generalizing done s with
  | nil => rw [List.filter_nil, List.append_nil]; exact h
  | cons k ks ih =>
    have new : k ∉ done := fun member => List.disjoint_of_nodup_append distinct member List.mem_cons_self
    rw [List.length_cons] at few
    rw [List.foldl_cons, requestIfUp, h.line k new]
    by_cases off : (a.line k).state = .off
    · rw [if_pos off, List.filter_cons_of_neg (by simp [off])]
      exact ih h (distinct.sublist ((List.Sublist.refl done).append (List.sublist_cons_self k ks))) (by omega)
    · rw [if_neg off, List.filter_cons_of_pos (by simp [off]), List.append_cons]
      refine ih (h.grant new (by omega) waiters reserve) ?_ ?_
      · rw [← List.append_cons]; exact distinct
      · rw [List.length_append, List.length_singleton]; omega

/-! ## The cleared state (R176) -/

/-- The lines that come up at a warm restart. -/
def State.upLines (s : State) : List Line := allLines.filter fun k => decide ((s.line k).config.mode ≠ .off)

/-- The state once the cleared lines have their reservations. -/
@[irreducible] def State.restartGranted (s : State) : State := allLines.foldl requestIfUp (clearForRestart s)

theorem warmRestart_eq (s : State) : warmRestart s = noteEvent .restarted none none s.restartGranted := by
  unfold State.restartGranted
  rfl

theorem restartGrants_restartGranted (settings : SettingsInRange s) (off : OffLinesEmpty s) :
    RestartGrants (clearForRestart s) s.upLines s.restartGranted := by
  obtain ⟨-, -, -, -, reserve, -⟩ := settings
  have same (k : Line) : decide (((clearForRestart s).line k).state ≠ .off) =
      decide ((s.line k).config.mode ≠ .off) := by
    rw [line_clearForRestart]
    rcases (s.line k).restarted_cases with e | ⟨on, e⟩
    · rw [e]; exact decide_eq_decide.mpr (not_congr (off k).1.symm)
    · rw [e]; exact decide_eq_decide.mpr (iff_of_true nofun on)
  have start : RestartGrants (clearForRestart s) [] (clearForRestart s) := .start rfl
  have requests := start.requests (ks := allLines) (by decide) (by decide) rfl reserve
  rw [List.nil_append, List.filter_congr fun k _ => same k] at requests
  unfold State.restartGranted
  exact requests

/-! ## An emission while no counter is near its end -/

section
variable (short : ∀ x, s.route.counter x ≠ 0xFFFE#16)
include short

theorem countRelayInEmission_of_short (x : RelayCounter) : countRelayInEmission x s = s.bumpRelay x :=
  if_neg (short x)

theorem routeNotice_notice_of_short : (routeNotice i s).notice = s.notice := by
  cases decided : decideRelay s.route (s.frame i).dest with
  | forward j d =>
    rw [routeNotice_forward decided]
    split
    · rfl
    · rw [dropRef_notice]; rfl
  | discard => rw [routeNotice_discard decided, dropRef_notice, countRelayInEmission_of_short short]; rfl
  | unrouted => rw [routeNotice_unrouted decided, dropRef_notice, countRelayInEmission_of_short short]; rfl

end

theorem routeNotice_relayCounter (x : RelayCounter) : (routeNotice i s).route.counter x =
    if x = .discarded ∧ decideRelay s.route (s.frame i).dest = .discard ∨
        x = .unrouted ∧ decideRelay s.route (s.frame i).dest = .unrouted then satInc (s.route.counter x)
    else s.route.counter x := by
  cases decided : decideRelay s.route (s.frame i).dest with
  | forward j d =>
    rw [routeNotice_forward decided]
    split
    · simp
    · rw [dropRef_route]; simp
  | discard =>
    rw [routeNotice_discard decided, dropRef_route, countRelayInEmission_route, counter_bumpRelay]
    by_cases e : x = .discarded <;> simp [e]
  | unrouted =>
    rw [routeNotice_unrouted decided, dropRef_route, countRelayInEmission_route, counter_bumpRelay]
    by_cases e : x = .unrouted <;> simp [e]

/-- Of a slot's record a NOTICE's way leaves the retry count. -/
theorem routeNotice_retry : ((routeNotice i s).slot i).retry = (s.slot i).retry := by
  have dropped (u : State) : ((dropRef i u).slot i).retry = (u.slot i).retry := by
    unfold dropRef
    dsimp only
    split
    · rw [State.modPool_slot, State.slot_modSlot_same]
    · rw [State.slot_modSlot_same]
  have rewritten (d : Addr) : ((s.modFrame i fun f => { f with dest := d }).slot i).retry = (s.slot i).retry := by
    rw [State.modFrame, State.slot_modSlot_same]
  have counted (x : RelayCounter) : ((dropRef i (countRelayInEmission x s)).slot i).retry = (s.slot i).retry := by
    rw [dropped, State.slot_of_slots (countRelayInEmission_slots x s)]
  cases decided : decideRelay s.route (s.frame i).dest with
  | forward j d =>
    rw [routeNotice_forward decided]
    split
    · exact rewritten d
    · rw [dropped, rewritten]
  | discard => rw [routeNotice_discard decided, counted]
  | unrouted => rw [routeNotice_unrouted decided, counted]

theorem routeNotice_poolFree (i : SlotIx) (s : State) : ∃ free, (routeNotice i s).pool = { s.pool with free := free } := by
  obtain ⟨u, pool, same | dropped⟩ := routeNotice_pool i s
  · exact ⟨_, same⟩
  · obtain ⟨free, -, e⟩ := dropRef_pool i u
    exact ⟨free, by rw [dropped, e, pool]⟩

section
variable {rest : List SlotIx} (free : s.pool.free = i :: rest)
include free

theorem emitNotice_pool_eq : ∃ left, (emitNotice s).pool = { s.pool with free := left, noticeWaiting := false } := by
  obtain ⟨left, e⟩ := routeNotice_poolFree i (s.noticeBuilt i rest)
  rw [emitNotice_of_free free]
  exact ⟨left, e⟩

theorem emitNotice_retry : ((emitNotice s).slot i).retry = 0 := by
  rw [emitNotice_of_free free, State.modNotice_slot, routeNotice_retry, noticeBuilt_slot]

theorem emitNotice_relayCounter (x : RelayCounter) : (emitNotice s).route.counter x =
    if x = .discarded ∧ decideRelay s.route s.notice.address = .discard ∨
        x = .unrouted ∧ decideRelay s.route s.notice.address = .unrouted then satInc (s.route.counter x)
    else s.route.counter x := by
  have address : ((s.noticeBuilt i rest).frame i).dest = s.notice.address := by rw [noticeBuilt_frame]; rfl
  rw [emitNotice_of_free free, State.modNotice_route, routeNotice_relayCounter, address]
  rfl

theorem emitNotice_notice_of_short (short : ∀ x, s.route.counter x ≠ 0xFFFE#16) : (emitNotice s).notice =
    { s.notice with
      seq := s.notice.seq + 1#4, listed := s.notice.listing, building := none, state := .outstanding
      timer := some s.notice.interval } := by
  have built : ∀ x, (s.noticeBuilt i rest).route.counter x ≠ 0xFFFE#16 := short
  rw [emitNotice_of_free free, State.modNotice_notice, routeNotice_notice_of_short built]
  rfl

/-- A line changes by the NOTICE that joins its urgent queue, and by nothing else. -/
theorem emitNotice_line (k : Line) : (emitNotice s).line k = s.line k ∨
    ∃ d, decideRelay s.route s.notice.address = .forward k d ∧ (s.line k).state = .active ∧
      (emitNotice s).line k = { s.line k with urgentQ := (s.line k).urgentQ ++ [i] } := by
  obtain ⟨forward, discard, unrouted⟩ := emitNotice_outcomes free
  cases decided : decideRelay s.route s.notice.address with
  | forward j d =>
    obtain ⟨joins, refused⟩ := forward j d decided
    by_cases room : (s.line j).state = .active ∧ (s.line j).urgentQ.length < 4
    · obtain ⟨-, lines, -⟩ := joins room.1 room.2
      by_cases e : k = j
      · subst e
        exact .inr ⟨d, rfl, room.1, (State.line_of_lines lines).trans (State.line_setLine_same ..)⟩
      · exact .inl ((State.line_of_lines lines).trans (State.line_setLine_ne _ _ _ _ e))
    · obtain ⟨⟨lines, -⟩, -⟩ := refused ((not_and_or.mp room).imp_right not_lt.mp)
      exact .inl (State.line_of_lines lines)
  | discard => exact .inl (State.line_of_lines (discard decided).1.1)
  | unrouted => exact .inl (State.line_of_lines (unrouted decided).1.1)

end

end Sys2Proof.Machine
end


section
/-! PROOFS. What the warm restart leaves: the lines, the slots and the units. -/

namespace Sys2Proof.Machine

variable {s t : State} {i m : SlotIx} {j k : Line}

/-! ## The notice unit when RESTARTED is raised (R171) -/

/-- The notice unit of a warm restart with RESTARTED recorded, before the emission test. -/
def NoticeUnit.restartNoted (n : NoticeUnit) : NoticeUnit :=
  { n.restarted with
    records := n.restarted.records.set 0 { pending := true, count := 1#8, line := none, value := none } }

theorem NoticeUnit.restartNoted_record (n : NoticeUnit) (q : NoticeKind) : n.restartNoted.records.get q.code =
    if q = .restarted then { pending := true, count := 1#8, line := none, value := none }
    else { pending := false, count := 0#8, line := none, value := none } := by
  cases q <;> rfl

/-- RESTARTED alone is pending, so it alone is reported, when it is not masked. -/
theorem NoticeUnit.restartNoted_reports (n : NoticeUnit) (q : NoticeKind) : n.restartNoted.reports q =
    (decide (q = .restarted) && !n.mask.getLsbD 0) := by
  cases q <;> rfl

theorem NoticeUnit.restartNoted_reported (n : NoticeUnit) :
    n.restartNoted.reported = if n.mask.getLsbD 0 = true then [] else [.restarted] := by
  have reports : n.restartNoted.reports = fun q => decide (q = .restarted) && !n.mask.getLsbD 0 :=
    funext n.restartNoted_reports
  rw [NoticeUnit.reported, reports]
  cases n.mask.getLsbD 0 <;> rfl

theorem NoticeUnit.restartNoted_emits (n : NoticeUnit) :
    n.restartNoted.emits = (decide (n.address ≠ 0#16) && !n.mask.getLsbD 0) := by
  have address : n.restartNoted.address = n.address := rfl
  have state : n.restartNoted.state = .idle := rfl
  rw [NoticeUnit.emits, n.restartNoted_reported, address, state]
  cases n.mask.getLsbD 0 <;> simp

/-- The state of a warm restart with RESTARTED recorded, before the emission test. -/
def State.restartNoted (s : State) : State := recordEvent .restarted none none s.restartGranted

theorem warmRestart_eq_noted (s : State) : warmRestart s = emissionTest s.restartNoted := warmRestart_eq s

/-- Whether the warm restart sends a NOTICE of RESTARTED (R166). -/
def State.restartEmits (s : State) : Bool := decide (s.notice.address ≠ 0#16) && !s.notice.mask.getLsbD 0

section
variable (settings : SettingsInRange s) (off : OffLinesEmpty s)
include settings off

theorem State.restartNoted_notice : s.restartNoted.notice = s.notice.restartNoted := by
  obtain ⟨-, -, notice⟩ := (restartGrants_restartGranted settings off).units
  have cleared : (clearForRestart s).notice = s.notice.restarted := rfl
  rw [State.restartNoted, recordEvent_eq, State.modNotice_notice, notice, cleared]
  rfl

theorem State.restartNoted_pool : s.restartNoted.pool = { s.pool.restarted with
    free := allSlots.drop s.upLines.length, lastGranted := s.upLines.getLast?.getD 7 } :=
  (restartGrants_restartGranted settings off).pool

theorem State.restartNoted_route : s.restartNoted.route = s.route.restarted :=
  (restartGrants_restartGranted settings off).units.1

theorem State.restartNoted_agent : s.restartNoted.agent = s.agent.restarted :=
  (restartGrants_restartGranted settings off).units.2.1

end

theorem State.upLines_length (s : State) : s.upLines.length ≤ 8 :=
  (List.length_filter_le _ allLines).trans (by decide)

theorem State.mem_upLines : k ∈ s.upLines ↔ (s.line k).config.mode ≠ .off := by
  have all : k ∈ allLines := (by decide : ∀ j : Line, j ∈ allLines) k
  simp [State.upLines, all]

/-- The slot a NOTICE of RESTARTED is built in: the first that no line has been granted. -/
def State.restartSlot (s : State) : SlotIx := ⟨s.upLines.length, s.upLines_length.trans_lt (by decide)⟩

section
variable (settings : SettingsInRange s) (off : OffLinesEmpty s)
include settings off

theorem State.restartNoted_free :
    s.restartNoted.pool.free = s.restartSlot :: allSlots.drop (s.upLines.length + 1) := by
  rw [State.restartNoted_pool settings off]
  exact allSlots_drop _

theorem State.restartNoted_counter (x : RelayCounter) : s.restartNoted.route.counter x = 0#16 := by
  rw [State.restartNoted_route settings off]
  simp [RouteUnit.restarted, RouteUnit.counter, Vector.get_eq_getElem]

theorem warmRestart_quiet (quiet : s.restartEmits = false) : warmRestart s = s.restartNoted := by
  have waiting : s.restartNoted.pool.noticeWaiting = false := by rw [State.restartNoted_pool settings off]; rfl
  have emits : s.restartNoted.notice.emits = false := by
    rw [State.restartNoted_notice settings off, NoticeUnit.restartNoted_emits]; exact quiet
  have same : (s.restartNoted.modPool fun p => { p with noticeWaiting := false }) = s.restartNoted := by
    rw [← waiting]; rfl
  rw [warmRestart_eq_noted, emissionTest]
  exact (if_neg (by rw [emits]; nofun)).trans same

theorem warmRestart_emits (emits : s.restartEmits = true) : warmRestart s = emitNotice s.restartNoted := by
  have waiting : ¬ s.restartNoted.pool.noticeWaiting = true := by rw [State.restartNoted_pool settings off]; nofun
  have on : s.restartNoted.notice.emits = true := by
    rw [State.restartNoted_notice settings off, NoticeUnit.restartNoted_emits]; exact emits
  have some : ¬ s.restartNoted.pool.free = [] := by rw [State.restartNoted_free settings off]; nofun
  rw [warmRestart_eq_noted, emissionTest]
  exact (if_pos on).trans ((if_neg waiting).trans (if_neg some))

/-- Where the NOTICE of RESTARTED goes is decided as the route unit stood before the restart. -/
theorem State.restartNoted_verdict : decideRelay s.restartNoted.route s.restartNoted.notice.address =
    decideRelay s.route s.notice.address := by
  rw [State.restartNoted_route settings off, State.restartNoted_notice settings off]
  rfl

/-! ## The lines (R176) -/

/-- A line OFF is cleared of its counters; a line that comes up has its slot besides. -/
theorem State.restartNoted_line (k : Line) : ((s.line k).config.mode = .off → s.restartNoted.line k = (s.line k).restarted) ∧
    ∀ n, s.upLines[n]? = some k → ∃ i : SlotIx, i.val = n ∧
      s.restartNoted.line k = { (s.line k).restarted with reservation := some i } ∧
      (s.restartNoted.slot i).holders = 1 ∧ (s.restartNoted.slot i).arrival = some k := by
  have grants := restartGrants_restartGranted settings off
  refine ⟨fun down => ?_, fun n at_ => ?_⟩
  · rw [← line_clearForRestart]
    exact grants.line k fun member => State.mem_upLines.mp member down
  · obtain ⟨i, index, line, slot⟩ := grants.granted n k at_
    rw [line_clearForRestart] at line
    exact ⟨i, index, line, congrArg Slot.holders slot, congrArg Slot.arrival slot⟩

/-- After the restart a line differs from the noted one by the NOTICE in its urgent queue alone. -/
theorem warmRestart_line (k : Line) : (warmRestart s).line k = s.restartNoted.line k ∨
    s.restartEmits = true ∧ (∃ d, decideRelay s.route s.notice.address = .forward k d) ∧
      (s.restartNoted.line k).state = .active ∧ (warmRestart s).line k =
        { s.restartNoted.line k with urgentQ := (s.restartNoted.line k).urgentQ ++ [s.restartSlot] } := by
  cases emits : s.restartEmits with
  | false => rw [warmRestart_quiet settings off emits]; exact .inl rfl
  | true =>
    rw [warmRestart_emits settings off emits]
    rcases emitNotice_line (State.restartNoted_free settings off) k with same | ⟨d, verdict, active, line⟩
    · exact .inl same
    · rw [State.restartNoted_verdict settings off] at verdict
      exact .inr ⟨rfl, ⟨d, verdict⟩, active, line⟩

end

/-! ## The restarted line, field by field -/

theorem LineRec.restarted_off {l : LineRec} (down : l.config.mode = .off) :
    l.restarted = { l with counters := Vector.replicate 16 0#16 } := by
  rcases l.restarted_cases with e | ⟨on, -⟩
  · exact e
  · exact absurd down on

theorem LineRec.restarted_up {l : LineRec} (on : l.config.mode ≠ .off) : l.restarted =
    { l with
      state := .active, rx := Receiver.fresh, turnaround := none, faultTimer := none, recovery := none
      reservation := none, tp := none, normalQ := [], urgentQ := [], await := .empty, confirmTimer := none
      pendingConf := [], memo := []
      pollList := if l.config.mode = .polled then l.pollList.map PollEntry.reset else l.pollList
      pollPos := if l.config.mode = .polled then 0 else l.pollPos
      cycle := if l.config.mode = .polled then 0#4 else l.cycle
      burst := if l.config.mode = .polled then 0 else l.burst
      window := .closed, windowTimer := none, pauseTimer := none, counters := Vector.replicate 16 0#16 } := by
  unfold LineRec.restarted
  dsimp only
  rw [if_neg on, LineRec.emptied_eq]
  simp only [decide_eq_true_eq]

/-- What is cleared and kept of every line (R176). -/
theorem LineRec.restarted_kept (l : LineRec) : l.restarted.config = l.config ∧
    l.restarted.counters = Vector.replicate 16 0#16 ∧
      l.restarted.pollList.map PollEntry.node = l.pollList.map PollEntry.node := by
  by_cases down : l.config.mode = .off
  · rw [LineRec.restarted_off down]; exact ⟨rfl, rfl, rfl⟩
  · rw [LineRec.restarted_up down]
    refine ⟨rfl, rfl, ?_⟩
    dsimp only
    split
    · rw [List.map_map]; rfl
    · rfl

/-! ## Slots (R39, R55) -/

theorem slot_clearForRestart (s : State) (i : SlotIx) : (clearForRestart s).slot i = (s.slot i).restarted := by
  simp [clearForRestart, State.slot, Vector.get_eq_getElem]

section
variable (settings : SettingsInRange s) (off : OffLinesEmpty s)
include settings off

theorem warmRestart_line_form (k : Line) : ∃ q r, (warmRestart s).line k =
    { (s.line k).restarted with urgentQ := q, reservation := r } := by
  have noted : ∃ r, s.restartNoted.line k = { (s.line k).restarted with reservation := r } := by
    obtain ⟨down, granted⟩ := State.restartNoted_line settings off k
    by_cases mode : (s.line k).config.mode = .off
    · exact ⟨_, down mode⟩
    · obtain ⟨n, at_⟩ := List.mem_iff_getElem?.mp (State.mem_upLines.mpr mode)
      obtain ⟨i, -, line, -⟩ := granted n at_
      exact ⟨_, line⟩
  obtain ⟨r, line⟩ := noted
  rcases warmRestart_line settings off k with e | ⟨-, -, -, e⟩
  · rw [line] at e; exact ⟨_, _, e⟩
  · rw [line] at e; exact ⟨_, _, e⟩

theorem warmRestart_line_off (down : (s.line k).config.mode = .off) :
    (warmRestart s).line k = { s.line k with counters := Vector.replicate 16 0#16 } := by
  have line := (State.restartNoted_line settings off k).1 down
  rw [LineRec.restarted_off down] at line
  rcases warmRestart_line settings off k with e | ⟨-, -, active, -⟩
  · rw [e, line]
  · rw [line] at active
    exact absurd (((off k).1.mp down).symm.trans active) nofun

theorem restartNoted_slot (i : SlotIx) : (s.restartNoted.slot i).retry = 0 ∧
    (s.upLines.length ≤ i.val → (s.restartNoted.slot i).holders = 0) := by
  have grants := restartGrants_restartGranted settings off
  have same : s.restartNoted.slot i = s.restartGranted.slot i := rfl
  rw [same]
  have cleared (above : s.upLines.length ≤ i.val) : s.restartGranted.slot i = (s.slot i).restarted :=
    (grants.slot i above).trans (slot_clearForRestart s i)
  refine ⟨?_, fun above => by rw [cleared above]; rfl⟩
  by_cases above : s.upLines.length ≤ i.val
  · rw [cleared above]; rfl
  · obtain ⟨m, index, -, slot⟩ := grants.granted i.val _ (List.getElem?_eq_getElem (not_le.mp above))
    rw [← Fin.ext index, slot]

theorem warmRestart_slot_ne (ne : i ≠ s.restartSlot) : (warmRestart s).slot i = s.restartNoted.slot i := by
  cases emits : s.restartEmits with
  | false => rw [warmRestart_quiet settings off emits]
  | true =>
    rw [warmRestart_emits settings off emits]
    exact emitNotice_slot_ne (State.restartNoted_free settings off) ne

theorem warmRestart_retry (i : SlotIx) : ((warmRestart s).slot i).retry = 0 := by
  by_cases ne : i = s.restartSlot
  · cases emits : s.restartEmits with
    | false => rw [warmRestart_quiet settings off emits]; exact (restartNoted_slot settings off i).1
    | true =>
      rw [warmRestart_emits settings off emits, ne]
      exact emitNotice_retry (State.restartNoted_free settings off)
  · rw [warmRestart_slot_ne settings off ne]; exact (restartNoted_slot settings off i).1

/-- A slot beyond those granted is held by nothing but a NOTICE. -/
theorem warmRestart_holders (beyond : s.upLines.length < i.val ∨ i.val = s.upLines.length ∧ s.restartEmits = false) :
    ((warmRestart s).slot i).holders = 0 := by
  rcases beyond with above | ⟨here, quiet⟩
  · have ne : i ≠ s.restartSlot := fun e => above.ne' (congrArg Fin.val e)
    rw [warmRestart_slot_ne settings off ne]
    exact (restartNoted_slot settings off i).2 above.le
  · rw [warmRestart_quiet settings off quiet]
    exact (restartNoted_slot settings off i).2 here.ge

/-- Each line that comes up holds the slot of its rank (R45, R55). -/
theorem warmRestart_granted {n : Nat} (at_ : s.upLines[n]? = some k) :
    (((warmRestart s).line k).reservation.map Fin.val) = some n ∧
      ∀ i : SlotIx, i.val = n → ((warmRestart s).slot i).holders = 1 ∧ ((warmRestart s).slot i).arrival = some k := by
  obtain ⟨i, index, line, holders, arrival⟩ := (State.restartNoted_line settings off k).2 n at_
  have lt : n < s.upLines.length := (List.getElem?_eq_some_iff.mp at_).1
  have reservation : ((warmRestart s).line k).reservation = some i := by
    rcases warmRestart_line settings off k with e | ⟨-, -, -, e⟩
    · rw [e, line]
    · rw [e, line]
  refine ⟨by rw [reservation, ← index]; rfl, fun m same => ?_⟩
  obtain rfl : m = i := Fin.ext (same.trans index.symm)
  have ne : m ≠ s.restartSlot := fun e => lt.ne (same.symm.trans (congrArg Fin.val e))
  rw [warmRestart_slot_ne settings off ne]
  exact ⟨holders, arrival⟩

end

end Sys2Proof.Machine
end


section
/-! PROOFS. O52: the NOTICE of RESTARTED, and the warm restart whole. -/

namespace Sys2Proof.Machine

variable {s : State} {j k : Line}

/-! ## The NOTICE of RESTARTED -/

/-- The NOTICE of RESTARTED as the route unit hands it on, to destination `d`. -/
def restartFrame (relay d : Addr) : Frame :=
  { dest := d, src := relay, kind := .notice, confirm := false, seq := 1#4, len := 6
    payload := [1#8, 0#8, 1#8, 0xFF#8, 0xFF#8, 0xFF#8] }

theorem State.restartEmits_iff : s.restartEmits = true ↔
    s.notice.address ≠ 0#16 ∧ s.notice.mask.getLsbD 0 = false := by
  rw [State.restartEmits, Bool.and_eq_true, decide_eq_true_iff, Bool.not_eq_true']

/-- An unmasked RESTARTED is all there is to report. -/
theorem NoticeUnit.restartNoted_listing {n : NoticeUnit} (unmasked : n.mask.getLsbD 0 = false) :
    n.restartNoted.listing = [(.restarted, 1#8)] ∧
      n.restartNoted.payload = [1#8, 0#8, 1#8, 0xFF#8, 0xFF#8, 0xFF#8] := by
  have reported : n.restartNoted.reported = [.restarted] := by
    rw [n.restartNoted_reported, unmasked]; rfl
  rw [NoticeUnit.listing, NoticeUnit.payload, reported]
  exact ⟨rfl, rfl⟩

theorem NoticeUnit.payload_seq (n : NoticeUnit) (q : BitVec 4) : { n with seq := q }.payload = n.payload := rfl

section
variable (settings : SettingsInRange s) (off : OffLinesEmpty s)
include settings off

theorem restartNoted_noticeFrame (emits : s.restartEmits = true) (d : Addr) :
    { noticeFrame { s.restartNoted with
        notice := { s.restartNoted.notice with seq := s.restartNoted.notice.seq + 1#4 } } with dest := d } =
      restartFrame s.route.relayAddr d := by
  obtain ⟨-, unmasked⟩ := State.restartEmits_iff.mp emits
  have relay : s.restartNoted.route.relayAddr = s.route.relayAddr := by
    rw [State.restartNoted_route settings off]; rfl
  have payload := (NoticeUnit.restartNoted_listing unmasked).2
  unfold noticeFrame
  dsimp only
  rw [NoticeUnit.payload_seq, State.restartNoted_notice settings off, payload, relay]
  rfl

/-- Nothing is queued on any line before the NOTICE is (R176). -/
theorem restartNoted_urgentQ (k : Line) : (s.restartNoted.line k).urgentQ = [] := by
  obtain ⟨down, granted⟩ := State.restartNoted_line settings off k
  by_cases mode : (s.line k).config.mode = .off
  · obtain ⟨state, holds⟩ := off k
    obtain ⟨⟨-, -, -, -, -, -, -, -, -, urgent, -⟩, -⟩ := holds (state.mp mode)
    rw [down mode, LineRec.restarted_off mode]
    exact urgent
  · obtain ⟨n, at_⟩ := List.mem_iff_getElem?.mp (State.mem_upLines.mpr mode)
    obtain ⟨i, -, line, -⟩ := granted n at_
    rw [line, LineRec.restarted_up mode]

/-- A line is ACTIVE after the restart exactly when it has a mode (R176). -/
theorem restartNoted_active (k : Line) :
    (s.restartNoted.line k).state = .active ↔ (s.line k).config.mode ≠ .off := by
  obtain ⟨down, granted⟩ := State.restartNoted_line settings off k
  by_cases mode : (s.line k).config.mode = .off
  · have state : (s.line k).restarted.state = .off := by
      rw [LineRec.restarted_off mode]; exact (off k).1.mp mode
    rw [down mode, state]
    exact iff_of_false nofun (not_not_intro mode)
  · obtain ⟨n, at_⟩ := List.mem_iff_getElem?.mp (State.mem_upLines.mpr mode)
    obtain ⟨i, -, line, -⟩ := granted n at_
    rw [line, LineRec.restarted_up mode]
    exact iff_of_true rfl mode

/-- Where the NOTICE is decided for a line that is up, it waits there in its slot. -/
theorem warmRestart_joined (emits : s.restartEmits = true) {d : Addr}
    (verdict : decideRelay s.route s.notice.address = .forward j d) (on : (s.line j).config.mode ≠ .off) :
    (warmRestart s).pool.free = allSlots.drop (s.upLines.length + 1) ∧
      ((warmRestart s).line j).urgentQ = [s.restartSlot] ∧
      (warmRestart s).slot s.restartSlot =
        { frame := restartFrame s.route.relayAddr d, arrival := none, holders := 1, retry := 0 } := by
  obtain ⟨forward, -⟩ := emitNotice_outcomes (State.restartNoted_free settings off)
  have urgent := restartNoted_urgentQ settings off j
  obtain ⟨joins, -⟩ := forward j d ((State.restartNoted_verdict settings off).trans verdict)
  obtain ⟨slot, lines, free⟩ := joins ((restartNoted_active settings off j).mpr on) (by rw [urgent]; decide)
  rw [warmRestart_emits settings off emits]
  refine ⟨free, ?_, ?_⟩
  · rw [State.line_of_lines lines, State.line_setLine_same, urgent]
    rfl
  · rw [slot, restartNoted_noticeFrame settings off emits d]

/-- A NOTICE no line takes leaves its slot at the tail of the free list (R43). -/
theorem warmRestart_released (emits : s.restartEmits = true)
    (down : ∀ j d, decideRelay s.route s.notice.address = .forward j d → (s.line j).config.mode = .off) :
    (warmRestart s).pool.free =
      allSlots.drop (s.upLines.length + 1) ++ (allSlots.drop s.upLines.length).take 1 := by
  obtain ⟨forward, discard, unrouted⟩ := emitNotice_outcomes (State.restartNoted_free settings off)
  have released : NoticeReleased s.restartNoted s.restartSlot (allSlots.drop (s.upLines.length + 1))
      (emitNotice s.restartNoted) := by
    rw [State.restartNoted_verdict settings off] at forward discard unrouted
    cases verdict : decideRelay s.route s.notice.address with
    | forward j d =>
      have refused : ¬ (s.restartNoted.line j).state = .active := fun active =>
        (restartNoted_active settings off j).mp active (down j d verdict)
      exact ((forward j d verdict).2 (.inl refused)).1
    | discard => exact (discard verdict).1
    | unrouted => exact (unrouted verdict).1
  have first : allSlots.drop s.upLines.length = s.restartSlot :: allSlots.drop (s.upLines.length + 1) :=
    allSlots_drop _
  rw [warmRestart_emits settings off emits, first]
  exact released.2.2

theorem warmRestart_free_quiet (quiet : s.restartEmits = false) :
    (warmRestart s).pool.free = allSlots.drop s.upLines.length := by
  rw [warmRestart_quiet settings off quiet, State.restartNoted_pool settings off]

theorem warmRestart_urgentQ_nil (unqueued : s.restartEmits = false ∨
    ∀ d, decideRelay s.route s.notice.address = .forward j d → (s.line j).config.mode = .off) :
    ((warmRestart s).line j).urgentQ = [] := by
  rcases warmRestart_line settings off j with same | ⟨emits, ⟨d, verdict⟩, active, -⟩
  · rw [same]; exact restartNoted_urgentQ settings off j
  · rcases unqueued with quiet | down
    · rw [emits] at quiet; cases quiet
    · exact absurd (down d verdict) ((restartNoted_active settings off j).mp active)

/-! ## The units (R55, R145, R171, R176) -/

theorem warmRestart_relayCounter (x : RelayCounter) : (warmRestart s).route.counter x =
    if s.restartEmits = true ∧
        (x = .discarded ∧ decideRelay s.route s.notice.address = .discard ∨
          x = .unrouted ∧ decideRelay s.route s.notice.address = .unrouted) then 1#16
    else 0#16 := by
  have zero := State.restartNoted_counter settings off x
  cases emits : s.restartEmits with
  | false => rw [warmRestart_quiet settings off emits, zero, if_neg fun h => nomatch h.1]
  | true =>
    rw [warmRestart_emits settings off emits, emitNotice_relayCounter (State.restartNoted_free settings off),
      State.restartNoted_verdict settings off, zero]
    simp only [true_and]
    rfl

theorem warmRestart_pool : ∃ free, (warmRestart s).pool =
    { s.pool.restarted with free := free, lastGranted := s.upLines.getLast?.getD 7 } := by
  have noted := State.restartNoted_pool settings off
  cases emits : s.restartEmits with
  | false => rw [warmRestart_quiet settings off emits]; exact ⟨_, noted⟩
  | true =>
    obtain ⟨left, pool⟩ := emitNotice_pool_eq (State.restartNoted_free settings off)
    rw [warmRestart_emits settings off emits]
    exact ⟨left, by rw [pool, noted]; rfl⟩

theorem warmRestart_agent : (warmRestart s).agent = s.agent.restarted := by
  have noted := State.restartNoted_agent settings off
  cases emits : s.restartEmits with
  | false => rw [warmRestart_quiet settings off emits, noted]
  | true => rw [warmRestart_emits settings off emits, emitNotice_agent, noted]

theorem warmRestart_notice_quiet (quiet : s.restartEmits = false) :
    (warmRestart s).notice = s.notice.restartNoted := by
  rw [warmRestart_quiet settings off quiet, State.restartNoted_notice settings off]

theorem warmRestart_notice_emits (emits : s.restartEmits = true) : (warmRestart s).notice =
    { s.notice.restartNoted with
      seq := 1#4, listed := [(.restarted, 1#8)], building := none, state := .outstanding
      timer := some s.notice.interval } := by
  obtain ⟨-, unmasked⟩ := State.restartEmits_iff.mp emits
  have listing := (NoticeUnit.restartNoted_listing unmasked).1
  have short (x : RelayCounter) : s.restartNoted.route.counter x ≠ 0xFFFE#16 := by
    rw [State.restartNoted_counter settings off x]; decide
  rw [warmRestart_emits settings off emits, emitNotice_notice_of_short (State.restartNoted_free settings off) short,
    State.restartNoted_notice settings off, listing]
  rfl

/-- What a NOTICE of RESTARTED leaves of the notice unit, whether sent or not. -/
theorem warmRestart_notice_kept : (warmRestart s).notice.records = s.notice.restartNoted.records ∧
    (warmRestart s).notice.mask = s.notice.mask ∧ (warmRestart s).notice.address = s.notice.address ∧
      (warmRestart s).notice.interval = s.notice.interval ∧ (warmRestart s).notice.building = none := by
  cases emits : s.restartEmits with
  | false => rw [warmRestart_notice_quiet settings off emits]; exact ⟨rfl, rfl, rfl, rfl, rfl⟩
  | true => rw [warmRestart_notice_emits settings off emits]; exact ⟨rfl, rfl, rfl, rfl, rfl⟩

/-! ## The lines -/

theorem warmRestart_line_kept (k : Line) : ((warmRestart s).line k).config = (s.line k).config ∧
    (∀ c, ((warmRestart s).line k).counter c = 0#16) ∧
      ((warmRestart s).line k).pollList.map PollEntry.node = (s.line k).pollList.map PollEntry.node := by
  obtain ⟨q, r, line⟩ := warmRestart_line_form settings off k
  obtain ⟨config, counters, nodes⟩ := (s.line k).restarted_kept
  rw [line]
  refine ⟨config, fun c => ?_, nodes⟩
  simp [LineRec.counter, counters, Vector.get_eq_getElem]

/-- A line that comes up starts anew (R176). -/
theorem warmRestart_line_up (on : (s.line k).config.mode ≠ .off) : ∃ q r, (warmRestart s).line k =
    { s.line k with
      state := .active, rx := Receiver.fresh, turnaround := none, faultTimer := none, recovery := none
      reservation := r, tp := none, normalQ := [], urgentQ := q, await := .empty, confirmTimer := none
      pendingConf := [], memo := []
      pollList := if (s.line k).config.mode = .polled then (s.line k).pollList.map PollEntry.reset else (s.line k).pollList
      pollPos := if (s.line k).config.mode = .polled then 0 else (s.line k).pollPos
      cycle := if (s.line k).config.mode = .polled then 0#4 else (s.line k).cycle
      burst := if (s.line k).config.mode = .polled then 0 else (s.line k).burst
      window := .closed, windowTimer := none, pauseTimer := none, counters := Vector.replicate 16 0#16 } := by
  obtain ⟨q, r, line⟩ := warmRestart_line_form settings off k
  rw [LineRec.restarted_up on] at line
  exact ⟨q, r, line⟩

end

/-- Settles O52: the cleared state, the reservations granted line after line, and the one event that follows. -/
theorem warmRestartClearsAndKeeps : Obligations.WarmRestartClearsAndKeeps := by
  unfold Obligations.WarmRestartClearsAndKeeps
  intro s settings off t up emitted verdict
  have agent := warmRestart_agent settings off
  have pool := warmRestart_pool settings off
  have tables := warmRestart_tables s
  have globals := warmRestart_globals s
  have notices := warmRestart_notice_kept settings off
  have sent := warmRestart_notice_emits settings off
  have silent := warmRestart_notice_quiet settings off
  have kept := warmRestart_line_kept settings off
  have fresh := @warmRestart_line_up s
  have down := @warmRestart_line_off s
  have granted := @warmRestart_granted s
  have retry := warmRestart_retry settings off
  have holders := @warmRestart_holders s
  have free := warmRestart_free_quiet settings off
  have joined := @warmRestart_joined s
  have released := warmRestart_released settings off
  have urgent := @warmRestart_urgentQ_nil s
  have counters := warmRestart_relayCounter settings off
  have made : warmRestart s = t := rfl
  clear_value t
  rw [made] at agent pool tables globals notices sent silent kept fresh down
  rw [made] at granted retry holders free joined released urgent counters
  obtain ⟨left, pool⟩ := pool
  obtain ⟨active, generation, shadow⟩ := tables
  obtain ⟨records, mask, address, interval, building⟩ := notices
  have last : t.pool.lastGranted = s.upLines.getLast?.getD 7 := congrArg Pool.lastGranted pool
  refine ⟨kept, fun k on => ?_, fun k polled => ?_, fun k => down settings off, fun n k => granted settings off,
    retry, fun i => holders settings off, free, fun j d emits decided on => ?_, released,
    fun j => urgent settings off, counters,
    (congrArg Pool.waiters pool :), (congrArg Pool.state pool :), (congrArg Pool.noticeWaiting pool :),
    fun k at_ => last.trans (congrArg (·.getD 7) at_),
    fun empty => last.trans (congrArg (fun l : List Line => l.getLast?.getD 7) empty),
    (congrArg Pool.reserve pool :), (congrArg Pool.lowMark pool :), (congrArg Pool.highMark pool :),
    (congrArg Agent.state agent :), (congrArg Agent.queue agent :), (congrArg Agent.current agent :),
    (congrArg Agent.restartReply agent :), (congrArg Agent.claim agent :), (congrArg Agent.lease agent :),
    (congrArg Agent.cache agent :), (congrArg Agent.leaseSetting agent :),
    active, shadow, generation, (congrArg Globals.relayAddr globals :), (congrArg Globals.defaultAction globals :),
    (congrArg Globals.broadcastSet globals :), ?_, fun q other => ?_, mask, address, interval, building,
    fun emits => ?_, fun quiet => ?_⟩
  · obtain ⟨q, r, line⟩ := fresh settings off on
    rw [line]
    exact ⟨rfl, rfl, rfl, rfl, rfl, rfl, rfl, rfl, rfl, rfl, rfl, rfl, rfl, rfl⟩
  · obtain ⟨q, r, line⟩ := fresh settings off (k := k) (by rw [polled]; nofun)
    rw [line]
    exact ⟨if_pos polled, if_pos polled, if_pos polled, if_pos polled⟩
  · obtain ⟨free, urgent, slot⟩ := joined settings off emits decided on
    refine ⟨free, congrArg (List.map Fin.val) urgent, fun i at_ => ?_⟩
    obtain rfl : i = s.restartSlot := Fin.ext at_
    exact slot
  · rw [records]
    exact s.notice.restartNoted_record .restarted
  · rw [records, s.notice.restartNoted_record, if_neg other]
  · rw [sent emits]
    exact ⟨rfl, rfl, rfl, rfl⟩
  · rw [silent quiet]
    exact ⟨rfl, rfl, rfl, rfl⟩

end Sys2Proof.Machine
end
